-- ==== Sys2Proof/Word.lean ====
section
/-! DEFINITION. The word types of the SUL block (00_scope.md R8): 32-bit port registers, pointers, sizes, counters
and callback identifiers; 16-bit control and divisor registers; 8-bit data bytes. -/

namespace Sys2Proof

/-- A data byte; also a `row`, a `col` or an `inst` field (R8, R101). -/
abbrev Byte := BitVec 8

/-- The control register `CR` and the divisor register `BRR` (R8). -/
abbrev Half := BitVec 16

/-- Counters, pointers, sizes, positions, lengths, callback identifiers, command words (R8, R100). -/
abbrev Word := BitVec 32

end Sys2Proof
end

