-- ==== Sys2Proof/Config.lean ====
section
/-! DEFINITION. The implementation parameters of 00_scope.md R7 as one record of plain data, fixed before reset is
released, and the two free values of the model, constants without a body. -/

namespace Sys2Proof

/-- `LCD_MODE`: the LCD bus width (R7, R221). -/
inductive LcdMode where
  | eight
  | four
deriving DecidableEq, Repr

/-- `IRQ_GATE`: whether a handler branch also tests its interrupt enable (R7, R190). -/
inductive IrqGate where
  | flagAndEnable
  | flagOnly
deriving DecidableEq, Repr

/-- `UCFG[i].wordlen` in {8, 9} (R7). -/
inductive WordLen where
  | eight
  | nine
deriving DecidableEq, Repr

/-- `UCFG[i].parity` in {None, Even, Odd} (R7). -/
inductive Parity where
  | none
  | even
  | odd
deriving DecidableEq, Repr

/-- `UCFG[i].stop` in {1, 2} (R7). -/
inductive StopBits where
  | one
  | two
deriving DecidableEq, Repr

/-- `UCFG[i]` with `NVIC_EN[i]` beside it (R7). `oversampling` (R7's `over`) is a plain number: R165 answers for a value other than 8 and
16. -/
structure UCfg where
  present : Bool
  baud : Nat
  pclkHz : Nat
  oversampling : Nat
  wordlen : WordLen
  parity : Parity
  stop : StopBits
  /-- `NVIC_EN[i]`: the interrupt is enabled and routed to its handler (R281, R294). -/
  nvicEn : Bool
deriving DecidableEq, Repr

/-- A row `RUN[k]` of the runnable table (R26, R297). -/
structure Runnable where
  name : String
  periodMs : Nat
  cb : Word
deriving DecidableEq, Repr

/-- A range of BUF addresses that the launch memory admits (R71, D37). -/
structure Region where
  base : Nat
  size : Nat
deriving DecidableEq, Repr

/-- The configuration record of R7. `N_RUN` and `N_USART` are the lengths of `run` and `ucfg`. -/
structure Config where
  /-- `T_TICK_MS`. -/
  tickMs : Word
  /-- `RUN[0..N_RUN-1]`. -/
  run : List Runnable
  /-- `SCH_SLOT` in 0..2. -/
  schSlot : Fin 3
  /-- `ST_CLKSRC`, an opaque token (D39). -/
  stClkSrc : Word
  /-- `UCFG[0..N_USART-1]` and `NVIC_EN`. -/
  ucfg : List UCfg
  /-- `RX_BUDGET`. -/
  rxBudget : Word
  /-- `LCD_MODE`. -/
  lcdMode : LcdMode
  /-- `LCD_POWERON_TICKS`. -/
  lcdPoweronTicks : Word
  /-- `LCD_PERIOD_MS`; read by no rule (R331). -/
  lcdPeriodMs : Nat
  /-- `LCD_ROWS`. -/
  lcdRows : Nat
  /-- `LCD_COLS`. -/
  lcdCols : Nat
  /-- `ROW_OFFSET[0..3]`. -/
  rowOffset : List Byte
  /-- `CMD_SET_DDRAM`. -/
  cmdSetDdram : Byte
  /-- `CMD_FS1`. -/
  cmdFs1 : Byte
  /-- `CMD_FS2`. -/
  cmdFs2 : Byte
  /-- `CMD_DC`. -/
  cmdDc : Byte
  /-- `CMD_CLR`. -/
  cmdClr : Byte
  /-- `CB_LCD`, the callback identifier of the LCD runnable (R286). -/
  cbLcd : Word
  /-- `SCHTICK`, the identifier of the scheduler's tick callback (R131, R286). -/
  schTick : Word
  /-- `ACCEPT_ATOMIC`. -/
  acceptAtomic : Bool
  /-- `IRQ_GATE`. -/
  irqGate : IrqGate
  /-- `RX_COMPLETE_EAGER`. -/
  rxCompleteEager : Bool
  /-- `RECVB_FIX`. -/
  recvbFix : Bool
  /-- The BUF addresses the launch memory admits (R71). -/
  bufRegions : List Region
deriving DecidableEq, Repr

/-- `N_RUN` (R7). -/
abbrev Config.nRun (c : Config) : Nat := c.run.length

/-- `N_USART` (R7). -/
abbrev Config.nUsart (c : Config) : Nat := c.ucfg.length

/-- The source's baud fixture on a present instance (R7, S4). -/
def UCfg.fixture : UCfg :=
  { present := true, baud := 9600, pclkHz := 16000000, oversampling := 8, wordlen := .eight, parity := .none, stop := .one,
    nvicEn := true }

/-- The default of `CMD_FS1`, by bus width (R224; log 16). -/
def LcdMode.defaultFs1 : LcdMode → Byte
  | .eight => 0x38
  | .four => 0x02

/-- The defaults of R7 and R224 for a bus width. DESIGN CHOICE (log 3) where R7 says "model argument": one runnable
row, the LCD's; the fixture on instance 0 and two absent instances; `RX_BUDGET` 3; identifiers of `CB_LCD` and
`SCHTICK` (log 14); every address but 0 admitted (log 6). -/
def Config.defaultFor (m : LcdMode) : Config :=
  { tickMs := 10
    run := [{ name := "LCD", periodMs := 2, cb := 0xFFFFFFFE }]
    schSlot := 0
    stClkSrc := 0
    ucfg := [UCfg.fixture, { UCfg.fixture with present := false }, { UCfg.fixture with present := false }]
    rxBudget := 3
    lcdMode := m
    lcdPoweronTicks := 15
    lcdPeriodMs := 2
    lcdRows := 4
    lcdCols := 16
    rowOffset := [0x00, 0x40, 0x10, 0x50]
    cmdSetDdram := 0x80
    cmdFs1 := m.defaultFs1
    cmdFs2 := 0x28
    cmdDc := 0x0C
    cmdClr := 0x01
    cbLcd := 0xFFFFFFFE
    schTick := 0xFFFFFFFF
    acceptAtomic := true
    irqGate := .flagAndEnable
    rxCompleteEager := false
    recvbFix := false
    bufRegions := [{ base := 1, size := 4294967295 }] }

/-- The default configuration: an 8-bit bus (DESIGN CHOICE, log 3). -/
def Config.default : Config := Config.defaultFor .eight

/-- Free value (log 5): what a byte of BUF holds that nothing has written since launch, by address (R67, U11). -/
opaque Config.launchByte : Nat → Byte

/-- Free value (log 8): the n-th draw of R196's third branch; `true` takes the new byte (U4). -/
opaque Config.rxDraw : Nat → Bool

end Sys2Proof
end

