-- ==== Sys2Proof/Machine/State.lean ====
section
/-! DEFINITION. The state of the block (10_state.md R20 to R67, 20_memory.md R70) as plain data, its reset, and the
two ways a step can stop. Names follow 10_state.md. -/

namespace Sys2Proof.Machine

/-! ## Port, scheduler, SysTick -/

/-- The command port registers (R21). -/
structure Port where
  a0 : Word
  a1 : Word
  a2 : Word
  r0 : Word
deriving DecidableEq, Repr

/-- `sch.phase` (R25). -/
inductive SchPhase where
  | stopped
  | poll
  | pass
deriving DecidableEq, Repr

/-- The scheduler (R23 to R25). -/
structure Sched where
  pending : Word
  elapsedMs : Word
  phase : SchPhase
  idx : Nat
deriving DecidableEq, Repr

/-- The SysTick collaborator as the scheduler observes it (R27); `cb0` to `cb2` are `st.cb[0..2]`, null = 0. -/
structure SysTick where
  periodMs : Word
  running : Bool
  cb0 : Word
  cb1 : Word
  cb2 : Word
deriving DecidableEq, Repr

/-! ## USART -/

/-- The state of a request slot (R33, R47). -/
inductive SlotState where
  | idle
  | busy
deriving DecidableEq, Repr

/-- A transfer request slot `us[i].tx` or `us[i].rx` (R33, R34). -/
structure Slot where
  buf : Word
  pos : Word
  size : Word
  cb : Word
  state : SlotState
deriving DecidableEq, Repr

/-- `us[i].rb.phase` (R36). -/
inductive RbPhase where
  | none
  | spinning
deriving DecidableEq, Repr

/-- The continuation of a blocking receive, `us[i].rb` (R36). -/
structure Rb where
  phase : RbPhase
  spin : Word
  buf : Word
deriving DecidableEq, Repr

/-- One USART (R28 to R36). -/
structure Usart where
  cr : Half
  tc : Bool
  rxne : Bool
  txInflight : Option Byte
  drRx : Byte
  brr : Half
  stop : BitVec 2
  tx : Slot
  rx : Slot
  rb : Rb
deriving DecidableEq, Repr

/-! ## LCD -/

/-- `lcd.top` (R40). -/
inductive LcdTop where
  | init
  | operational
  | off
deriving DecidableEq, Repr

/-- `lcd.init` (R41). -/
inductive LcdInit where
  | powerOn
  | functionSet1
  | functionSet2
  | displayControl
  | clearDisplay
  | endInit
deriving DecidableEq, Repr

/-- `lcd.wr` (R43). -/
inductive LcdWr where
  | start
  | setPosition
  | character
  | done
deriving DecidableEq, Repr

/-- `lcd.clr` (R44). -/
inductive LcdClr where
  | start
  | inProgress
  | done
deriving DecidableEq, Repr

/-- `lcd.strobe` (R45). -/
inductive Strobe where
  | low
  | high
deriving DecidableEq, Repr

/-- `lcd.req.type` (R47). -/
inductive ReqType where
  | none
  | write
  | clear
deriving DecidableEq, Repr

/-- The single global request slot `lcd.req` (R47). -/
structure LcdReq where
  ptr : Word
  len : Word
  row : Byte
  col : Byte
  pos : Word
  state : SlotState
  type : ReqType
deriving DecidableEq, Repr

/-- The LCD unit and its pins (R40 to R48). In 4-bit mode only bits 7:4 of `d` are pins (log 17). -/
structure Lcd where
  top : LcdTop
  init : LcdInit
  pwrCnt : Word
  wr : LcdWr
  clr : LcdClr
  strobe : Strobe
  hiNibble : Bool
  req : LcdReq
  rs : Bool
  e : Bool
  d : Byte
deriving DecidableEq, Repr

/-! ## BUF, output trace, inputs -/

/-- The BUF bytes written so far, by address: strictly rising addresses below 2^32; an unlisted byte is one that
nothing has written since launch (R70, R71, log 5). -/
abbrev Memory := List Host.Cell

/-- A call on the SysTick collaborator (R290). -/
inductive StCall where
  | setPeriodMilliseconds (p : Word)
  | registerCallback (fn : Word) (slot : Fin 3)
  | start (src : Word)
  | stop
deriving DecidableEq, Repr

/-- An output event (R66). `latch rs v w` has `w` 8 or 4; with 4 the value is zero-extended (log 18). -/
inductive Event where
  | run (k : Nat)
  | txFrame (i b : Byte)
  | txCb (i : Byte) (cb : Word)
  | rxCb (i : Byte) (cb : Word)
  | latch (rs : Bool) (v : Byte) (w : Nat)
  | pin (rs e : Bool) (d : Byte)
  | st (call : StCall)
  | ret (code : Word)
deriving DecidableEq, Repr

/-- An accept operation that has taken its step A and not its step B, with the operands it read at step A
(R104, R171, R249; only with `ACCEPT_ATOMIC = false`). -/
inductive Accept where
  | sendB (i : Byte) (a0 : Word)
  | recvB (i : Byte) (a0 : Word)
  | sendA (i : Byte) (a0 a1 a2 : Word)
  | recvA (i : Byte) (a0 a1 a2 : Word)
  | lcdWrite (row col : Byte) (a0 a1 : Word)
  | lcdClear
deriving DecidableEq, Repr

/-- An operand register of the port (R21). -/
inductive OpReg where
  | a0
  | a1
  | a2
deriving DecidableEq, Repr

/-- What the environment does next (R11; log 1, 7, 9). -/
inductive Input where
  /-- A command word presented by the HOST, or an event word taken by its agent (R100). -/
  | word (w : Word)
  /-- The HOST writes an operand register (R21). -/
  | operand (r : OpReg) (v : Word)
  /-- The HOST writes a byte of BUF, its own memory (R70, R82). -/
  | bufWrite (addr : Word) (b : Byte)
  /-- The k-th pending accept operation takes its step B (R171, R249). -/
  | accept (k : Nat)
deriving DecidableEq, Repr

/-! ## The state -/

/-- The state of the block (R20). `env`, `accepts` and `draws` are the model's own (log 1, 9, 8); `cfg` is the
configuration of R7, which no step changes. -/
structure State where
  cfg : Config
  port : Port
  sch : Sched
  st : SysTick
  us : List Usart
  lcd : Lcd
  buf : Memory
  trace : List Event
  accepts : List Accept
  env : List Input
  draws : Nat
deriving DecidableEq, Repr

/-! ## Reset -/

/-- Request slots at reset (R33, R67). -/
def Slot.reset : Slot := { buf := 0, pos := 0, size := 0, cb := 0, state := .idle }

/-- A USART at reset with the unspecified content `g` of `DR_RX` (R67). -/
def Usart.resetWith (g : Byte) : Usart :=
  { cr := 0, tc := true, rxne := false, txInflight := .none, drRx := g, brr := 0, stop := 0,
    tx := Slot.reset, rx := Slot.reset, rb := { phase := .none, spin := 0, buf := 0 } }

/-- The LCD unit at reset (R67). -/
def Lcd.reset : Lcd :=
  { top := .init, init := .powerOn, pwrCnt := 0, wr := .start, clr := .start, strobe := .low, hiNibble := true,
    req := { ptr := 0, len := 0, row := 0, col := 0, pos := 0, state := .idle, type := .none },
    rs := false, e := false, d := 0 }

/-- Reset (R67, R310) of a block with configuration `c`, the unspecified port registers `p`, the unspecified `DR_RX`
contents `g` by USART, and the HOST's memory `m`. -/
def State.resetWith (c : Config) (p : Port) (g : Nat → Byte) (m : Memory) : State :=
  { cfg := c, port := p
    sch := { pending := 0, elapsedMs := 0, phase := .stopped, idx := 0 }
    st := { periodMs := 0, running := false, cb0 := 0, cb1 := 0, cb2 := 0 }
    us := (List.range c.nUsart).map (fun i => Usart.resetWith (g i))
    lcd := Lcd.reset, buf := m, trace := [], accepts := [], env := [], draws := 0 }

/-- The machine right after reset: the default configuration (log 3), and 0 where R67 says unspecified (log 4). -/
def State.reset : State := State.resetWith Config.default { a0 := 0, a1 := 0, a2 := 0, r0 := 0 } (fun _ => 0) []

/-! ## Stops -/

/-- The stuck states. -/
inductive Fault where
  /-- A BUF access at an address the launch memory does not admit, address 0 among them: the agent that makes it has
  no step (R70, R71, R277, U10). Raised by every operation that reaches BUF. Safe. -/
  | bufNotAdmitted (addr : Word)
deriving DecidableEq, Repr

/-- The steps the spec gives no meaning. -/
inductive Refusal where
  /-- An instruction without a meaning in this model. Raised by no arm of this model. Safe. -/
  | notModelled (mnemonic : String)
  /-- A word that matches no row, or an event word that names no agent (R106). Raised by the fetch. Safe. -/
  | illegalWord (w : Word)
  /-- An operation on a USART the block does not have (R106); only where an illegal event word's instruction is
  executed outside the fetch. Raised by the event words with an `inst` operand. Safe. -/
  | noSuchUsart (i : Byte)
  /-- An event word whose guard does not hold is no step of any agent (R106, R109). Raised by EV.TICK, EV.SCHSTEP,
  EV.TXDONE, EV.IRQ and EV.POLL. Safe. -/
  | notEnabled (mnemonic : String)
  /-- SCH.START when not Stopped (R133, R277). Raised by SCH.START. Safe. -/
  | startTwice
  /-- A write of DR with the transmitter disabled (R162, R277). Raised by EV.IRQ. Safe. -/
  | txDisabled (i : Byte)
  /-- A write of DR with a frame in flight (R162, R277, R321). Raised by US.SENDB, US.SENDA, EV.IRQ. Safe. -/
  | txOverrun (i : Byte)
  /-- US.SENDA with size 0 (R183, R277). Raised by US.SENDA. Safe. -/
  | zeroSize
  /-- A configuration outside R7, R26 or U21 (R277). Raised by every step of such a machine. Safe. -/
  | badConfig
  /-- `lcd.req.row` outside 0..3, for which R225 defines no address (log 12). Raised by EV.LCDRUN in states no run
  reaches. Safe. -/
  | rowUndefined (row : Byte)
  /-- `sch.idx` above N_RUN, for which R138 and R139 say nothing (log 12). Raised by EV.SCHSTEP in states no run
  reaches. Safe. -/
  | idxUndefined (idx : Nat)
  /-- No accept operation is pending at that place (log 9). Raised by the input `accept`. Safe. -/
  | noSuchAccept (k : Nat)
deriving DecidableEq, Repr

end Sys2Proof.Machine
end

