-- ==== Sys2Proof/Machine/Flags.lean ====
section
/-! DEFINITION. The control register's bits (10_state.md R28), the status flags and the interrupt condition (R29, R37,
R61), and the encodings of the enumerations (R60). -/

namespace Sys2Proof.Machine

/-! ## Bits of CR (positions as R28 gives them, log 15) -/

/-- Bit positions of the fields of `CR` (R28). -/
def bitRxen : Nat := 2
def bitTxen : Nat := 3
def bitRxneie : Nat := 5
def bitTcie : Nat := 6
def bitParsel : Nat := 9
def bitParen : Nat := 10
def bitWlen9 : Nat := 12
def bitOver8 : Nat := 15

/-- Bit `k` of a control register. -/
def crBit (cr : Half) (k : Nat) : Bool := cr.getLsbD k

/-- A control register with bit `k` set to `b` and every other bit kept. -/
def crSet (cr : Half) (k : Nat) (b : Bool) : Half :=
  if b then cr ||| BitVec.twoPow 16 k else cr &&& ~~~(BitVec.twoPow 16 k)

/-- The field `f` of `us[i].CR` at value `b` (R161, R166, R182, R186, R191, R192). -/
def Usart.setCr (u : Usart) (k : Nat) (b : Bool) : Usart := { u with cr := crSet u.cr k b }

/-- The end of a blocking receive disables the receiver, with the source's OR defect unless `RECVB_FIX` (R179). -/
def Usart.disableRxAfterRecvB (fix : Bool) (u : Usart) : Usart :=
  if fix then u.setCr bitRxen false else { u with cr := u.cr ||| 0xFFFB }

/-! ## Interrupt condition -/

/-- Tx cause pending: flag and enable (R37). -/
def Usart.txCause (u : Usart) : Bool := u.tc && crBit u.cr bitTcie

/-- Rx cause pending: flag and enable (R37). -/
def Usart.rxCause (u : Usart) : Bool := u.rxne && crBit u.cr bitRxneie

/-- `NVIC_EN[i]` (R294). -/
def nvicEn (c : Config) (i : Byte) : Bool :=
  match c.ucfg[i.toNat]? with
  | some k => k.nvicEn
  | none => false

/-- `irq_pending(i)` (R37, R281), false of a USART the block does not have. -/
def irqPending (s : State) (i : Byte) : Bool :=
  match s.us[i.toNat]? with
  | some u => nvicEn s.cfg i && (u.txCause || u.rxCause)
  | none => false

/-- A handler branch's condition: the flag, and with `FlagAndEnable` its enable (R190). -/
def gated (g : IrqGate) (flag enable : Bool) : Bool :=
  match g with
  | .flagAndEnable => flag && enable
  | .flagOnly => flag

/-! ## Encodings (R60) -/

/-- USART status codes (R60, R271). -/
inductive UsStatus where
  | ok
  | invalidNumber
  | invalidBaudRate
  | nullPointer
  | busy
  | timeOut
deriving DecidableEq, Repr

/-- LCD status codes (R60, R272). -/
inductive LcdStatus where
  | ok
  | nullPointer
  | outOfRange
deriving DecidableEq, Repr

/-- Scheduler status codes (R60, R273). -/
inductive SchStatus where
  | ok
deriving DecidableEq, Repr

def usCode : UsStatus → Word
  | .ok => 0
  | .invalidNumber => 1
  | .invalidBaudRate => 2
  | .nullPointer => 3
  | .busy => 4
  | .timeOut => 5

def lcdCode : LcdStatus → Word
  | .ok => 0
  | .nullPointer => 1
  | .outOfRange => 2

def schCode : SchStatus → Word
  | .ok => 0

/-- The values of the state enumerations (R60). No operation of the block stores or returns one as bits; they are
what state inspection shows (R288). -/
def slotStateCode : SlotState → Nat
  | .idle => 0
  | .busy => 1

def reqTypeCode : ReqType → Nat
  | .none => 0
  | .write => 1
  | .clear => 2

def lcdTopCode : LcdTop → Nat
  | .init => 0
  | .operational => 1
  | .off => 2

def lcdInitCode : LcdInit → Nat
  | .powerOn => 0
  | .functionSet1 => 1
  | .functionSet2 => 2
  | .displayControl => 3
  | .clearDisplay => 4
  | .endInit => 5

def lcdWrCode : LcdWr → Nat
  | .start => 0
  | .setPosition => 1
  | .character => 2
  | .done => 3

def lcdClrCode : LcdClr → Nat
  | .start => 0
  | .inProgress => 1
  | .done => 2

def strobeCode : Strobe → Nat
  | .low => 0
  | .high => 1

def schPhaseCode : SchPhase → Nat
  | .stopped => 0
  | .poll => 1
  | .pass => 2

def rbPhaseCode : RbPhase → Nat
  | .none => 0
  | .spinning => 1

end Sys2Proof.Machine
end

