-- ==== Sys2Proof/Machine/Operands.lean ====
section
/-! DEFINITION. Where an operation's operands come from: the operand registers (30_encoding.md R104) and the BUF
addresses (20_memory.md R73). Address arithmetic is modulo 2^32 (R70). -/

namespace Sys2Proof.Machine

/-- `US.SENDB` reads, and `US.RECVB` will write, the byte at `A0` (R73, R104). -/
def byteAddr (s : State) : Word := s.port.a0

/-- `US.SENDA`'s eager push reads `A0 + 0` (R73, R182). -/
def eagerAddr (a0 : Word) : Word := a0 + 0

/-- `EV.IRQ`'s Tx branch reads `tx.buf + tx.pos` (R73, R191). -/
def txAddr (u : Usart) : Word := u.tx.buf + u.tx.pos

/-- `EV.IRQ`'s Rx branch writes `rx.buf + rx.pos` (R73, R192). -/
def rxAddr (u : Usart) : Word := u.rx.buf + u.rx.pos

/-- The end of a blocking receive writes at `rb.buf` (R73, R178). -/
def rbAddr (u : Usart) : Word := u.rb.buf

/-- The write machine reads `lcd.req.ptr + lcd.req.pos` (R73, R242). -/
def charAddr (s : State) : Word := s.lcd.req.ptr + s.lcd.req.pos

/-- The HOST writes an operand register (R21). -/
def setOperand (r : OpReg) (v : Word) (s : State) : State :=
  match r with
  | .a0 => { s with port := { s.port with a0 := v } }
  | .a1 => { s with port := { s.port with a1 := v } }
  | .a2 => { s with port := { s.port with a2 := v } }

end Sys2Proof.Machine
end

