-- ==== Sys2Proof/Machine/Ops.lean ====
section
/-! DEFINITION. The named operations over the state: outcomes in sequence, the output trace and the return of a status
code, BUF, the USART records and the data register, the SysTick collaborator, the form of a configuration. The block
has no traps and saves nothing on an interrupt (60_exceptions.md R270, R283, R284), so there is no operation that takes
an exception. -/

namespace Sys2Proof.Machine

/-- An outcome of this machine that carries a value on success. -/
abbrev Res (α : Type) := Host.Outcome α Fault Refusal

/-- Go on with the value of a step part, or stop as it stopped. -/
def andThen {α β : Type} (o : Res α) (f : α → Res β) : Res β :=
  match o with
  | .next a => f a
  | .fault r => .fault r
  | .refused r => .refused r

/-! ## Trace and result -/

/-- `emit E(args)` (R10, R66). -/
def emit (e : Event) (s : State) : State := { s with trace := s.trace ++ [e] }

/-- `return code`: R0 and RET(code) (R10, R21). -/
def ret (code : Word) (s : State) : State :=
  emit (.ret code) { s with port := { s.port with r0 := code } }

/-! ## BUF -/

/-- The byte written last at `a`, if any (R70). -/
def Memory.read : Memory → Nat → Option Byte
  | [], _ => none
  | (k, v) :: rest, a => if k = a then some v else Memory.read rest a

/-- Write `b` at `a`, keeping the addresses rising. -/
def Memory.write : Memory → Nat → Byte → Memory
  | [], a, b => [(a, b)]
  | (k, v) :: rest, a, b =>
    if a < k then (a, b) :: (k, v) :: rest
    else if a = k then (a, b) :: rest
    else (k, v) :: Memory.write rest a b

/-- Addresses strictly rising, from `lo` on and below 2^32. -/
def Memory.sortedFrom (lo : Nat) : Memory → Bool
  | [] => true
  | (k, _) :: rest => decide (lo ≤ k) && decide (k < 2 ^ 32) && Memory.sortedFrom (k + 1) rest

/-- The canonical form of BUF: strictly rising 32-bit addresses, none of them 0 (R70). -/
def Memory.wf (m : Memory) : Bool := Memory.sortedFrom 1 m

/-- What a byte of BUF holds: the byte written last, or the free launch content (R67, R71, log 5). -/
def bufByte (m : Memory) (a : Nat) : Byte := (Memory.read m a).getD (Config.launchByte a)

/-- Whether the launch memory admits an access at `a` (R71); address 0 never is accessed (R70). -/
def admits (c : Config) (a : Word) : Bool :=
  a != 0 && c.bufRegions.any (fun r => decide (r.base ≤ a.toNat) && decide (a.toNat < r.base + r.size))

/-- `MemRead(a, 1)` (R10, R72). -/
def load (s : State) (a : Word) : Res Byte :=
  if admits s.cfg a then .next (bufByte s.buf a.toNat) else .fault (.bufNotAdmitted a)

/-- `MemWrite(a, 1, b)` (R10, R72). -/
def store (a : Word) (b : Byte) (s : State) : Res State :=
  if admits s.cfg a then .next { s with buf := Memory.write s.buf a.toNat b } else .fault (.bufNotAdmitted a)

/-! ## USART records and the data register -/

/-- `us[i]`, if the block has it. -/
def usart? (s : State) (i : Byte) : Option Usart := s.us[i.toNat]?

/-- Change `us[i]`. -/
def modUs (i : Byte) (f : Usart → Usart) (s : State) : State :=
  { s with us := s.us.modify i.toNat f }

/-- Go on with `us[i]`; a USART the block does not have is no agent (R106). -/
def withUs {α : Type} (s : State) (i : Byte) (f : Usart → Res α) : Res α :=
  match usart? s i with
  | some u => f u
  | none => .refused (.noSuchUsart i)

/-- The record of a USART that started a frame carrying `b` (R162). -/
def Usart.startFrame (b : Byte) (u : Usart) : Usart := { u with txInflight := some b, tc := false }

/-- `WriteDR(i, b)` (R162). -/
def writeDR (i : Byte) (b : Byte) (s : State) : Res State :=
  withUs s i fun u =>
    if crBit u.cr bitTxen = false then .refused (.txDisabled i)
    else if u.txInflight ≠ none then .refused (.txOverrun i)
    else .next (emit (.txFrame i b) (modUs i (Usart.startFrame b) s))

/-- `ReadDR(i)`: the byte is `us[i].DR_RX`, and RXNE is cleared (R163). -/
def readDR (i : Byte) (s : State) : Res (Byte × State) :=
  withUs s i fun u => .next (u.drRx, modUs i (fun u => { u with rxne := false }) s)

/-! ## SysTick collaborator (R290) -/

/-- `SetPeriodMilliseconds(p)`. -/
def stSetPeriod (p : Word) (s : State) : State :=
  { emit (.st (.setPeriodMilliseconds p)) s with st := { s.st with periodMs := p } }

/-- `st.cb` with slot `k` holding `fn`. -/
def stSetCb (fn : Word) (k : Fin 3) (t : SysTick) : SysTick :=
  match k with
  | 0 => { t with cb0 := fn }
  | 1 => { t with cb1 := fn }
  | 2 => { t with cb2 := fn }

/-- `RegisterCallback(fn, k)`. -/
def stRegister (fn : Word) (k : Fin 3) (s : State) : State :=
  { emit (.st (.registerCallback fn k)) s with st := stSetCb fn k s.st }

/-- `Start(src)`. -/
def stStart (src : Word) (s : State) : State :=
  { emit (.st (.start src)) s with st := { s.st with running := true } }

/-- `Stop()`, called by no rule (R145, R290). -/
def stStop (s : State) : State :=
  { emit (.st .stop) s with st := { s.st with running := false } }

/-! ## Configuration -/

/-- The configurations the model gives a meaning: those of R7's constraints, R26 and U21 (R277, log 11). DESIGN CHOICE
(log 32): a table with a row whose `cb` is SCHTICK is admitted, though R131 says SCHTICK is no member of the table. -/
def configOk (c : Config) : Bool :=
  c.tickMs != 0 && c.run.all (fun r => r.periodMs != 0) && decide (1 ≤ c.nUsart) && c.lcdPoweronTicks != 0 &&
    decide (0 < c.lcdPeriodMs) && decide (c.lcdRows ≤ 4) && decide (c.rowOffset.length = 4) &&
    c.cbLcd != 0 && c.schTick != 0 && c.cbLcd != c.schTick

/-! ## Accept operations -/

/-- An accept operation past its checks: with `ACCEPT_ATOMIC` it takes its step B in the same step, without it the
step B is left for later (R171, R249). -/
def acceptOrHold (a : Accept) (stepB : State → Res State) (s : State) : Res State :=
  if s.cfg.acceptAtomic then stepB s else .next { s with accepts := s.accepts ++ [a] }

end Sys2Proof.Machine
end

