-- ==== Sys2Proof/Machine/Lcd.lean ====
section
/-! DEFINITION. Unit LCD (42_lcd.md): the two-phase send, the init, write and clear machines of one invocation of the
runnable, and the two request commands. -/

namespace Sys2Proof.Machine

/-- Replace the LCD unit's state. -/
def setLcd (l : Lcd) (s : State) : State := { s with lcd := l }

/-- `emit PIN(lcd.RS, lcd.E, lcd.D)` (R226). -/
def emitPin (s : State) : State := emit (.pin s.lcd.rs s.lcd.e s.lcd.d) s

/-! ## The send step -/

/-- The data lines of phase A: the byte, or one nibble of it on D7:D4 with D3:D0 as they were (R226, log 17). -/
def dataLines (m : LcdMode) (l : Lcd) (v : Byte) : Byte :=
  match m with
  | .eight => v
  | .four => (if l.hiNibble then v.extractLsb' 4 4 else v.extractLsb' 0 4) ++ l.d.extractLsb' 0 4

/-- Phase A (R226): RS and data driven, E raised. -/
def sendPhaseA (v : Byte) (rs : Bool) (s : State) : State :=
  emitPin (setLcd { s.lcd with rs := rs, d := dataLines s.cfg.lcdMode s.lcd v, e := true, strobe := .high } s)

/-- The latch of a falling edge of E (R226, log 18). -/
def latchEvent (m : LcdMode) (l : Lcd) : Event :=
  match m with
  | .eight => .latch l.rs l.d 8
  | .four => .latch l.rs ((l.d.extractLsb' 4 4).setWidth 8) 4

/-- E falls, the LCD latches (R226). -/
def lowerStrobe (s : State) : State :=
  emitPin (emit (latchEvent s.cfg.lcdMode s.lcd) (setLcd { s.lcd with e := false, strobe := .low } s))

/-- The nibble flip-flop after phase B, and whether the byte is complete (R226). -/
def sendDone (m : LcdMode) (hi : Bool) : Bool × Bool :=
  match m with
  | .eight => (hi, true)
  | .four => (!hi, !hi)

/-- Phase B (R226). -/
def sendPhaseB (s : State) : State :=
  setLcd { (lowerStrobe s).lcd with hiNibble := (sendDone s.cfg.lcdMode s.lcd.hiNibble).1 } (lowerStrobe s)

/-- `SEND(v, rs)` (R226), followed by `onDone` when it returns true. -/
def sendThen (v : Byte) (rs : Bool) (onDone : Lcd → Lcd) (s : State) : State :=
  match s.lcd.strobe with
  | .low => sendPhaseA v rs s
  | .high =>
    if (sendDone s.cfg.lcdMode s.lcd.hiNibble).2 then
      setLcd (onDone (sendPhaseB s).lcd) (sendPhaseB s)
    else sendPhaseB s

/-! ## The init machine -/

/-- R231. -/
def powerOnStep (s : State) : State :=
  setLcd { s.lcd with
    pwrCnt := s.lcd.pwrCnt + 1
    init := if s.cfg.lcdPoweronTicks ≤ s.lcd.pwrCnt + 1 then .functionSet1 else .powerOn } s

/-- The init state after FunctionSet1 (R232). -/
def afterFs1 : LcdMode → LcdInit
  | .eight => .displayControl
  | .four => .functionSet2

/-- One init step (R231 to R236). -/
def initStep (s : State) : State :=
  match s.lcd.init with
  | .powerOn => powerOnStep s
  | .functionSet1 => sendThen s.cfg.cmdFs1 false (fun l => { l with init := afterFs1 s.cfg.lcdMode }) s
  | .functionSet2 => sendThen s.cfg.cmdFs2 false (fun l => { l with init := .displayControl }) s
  | .displayControl => sendThen s.cfg.cmdDc false (fun l => { l with init := .clearDisplay }) s
  | .clearDisplay => sendThen s.cfg.cmdClr false (fun l => { l with init := .endInit }) s
  | .endInit => setLcd { s.lcd with top := .operational } s

/-! ## The write machine -/

/-- `ddram_cmd(row, col)` (R225), defined for the rows that have an offset. -/
def ddramCmd (c : Config) (row col : Byte) : Option Byte :=
  (c.rowOffset[row.toNat]?).map (fun off => c.cmdSetDdram ||| (off + col))

/-- R240. -/
def writeStartStep (s : State) : State :=
  emitPin (setLcd { s.lcd with e := false, strobe := .low, wr := .setPosition } s)

/-- R241. -/
def setPositionStep (s : State) : Res State :=
  match ddramCmd s.cfg s.lcd.req.row s.lcd.req.col with
  | some v => .next (sendThen v false (fun l => { l with wr := .character }) s)
  | none => .refused (.rowUndefined s.lcd.req.row)

/-- R242. -/
def characterStep (s : State) : Res State :=
  if s.lcd.req.pos < s.lcd.req.len then
    andThen (load s (charAddr s)) fun c =>
      .next (sendThen c true (fun l => { l with req := { l.req with pos := l.req.pos + 1 } }) s)
  else .next (setLcd { s.lcd with wr := .done } s)

/-- The request slot returns to Idle (R243, R247). -/
def LcdReq.release (r : LcdReq) : LcdReq := { r with state := .idle, type := .none }

/-- One write step (R240 to R243). -/
def writeStep (s : State) : Res State :=
  match s.lcd.wr with
  | .start => .next (writeStartStep s)
  | .setPosition => setPositionStep s
  | .character => characterStep s
  | .done => .next (setLcd { s.lcd with req := s.lcd.req.release, wr := .start } s)

/-! ## The clear machine -/

/-- One clear step (R244, R245, R247). -/
def clearStep (s : State) : State :=
  match s.lcd.clr with
  | .start => setLcd { s.lcd with clr := .inProgress } s
  | .inProgress => sendThen s.cfg.cmdClr false (fun l => { l with clr := .done }) s
  | .done => setLcd { s.lcd with req := s.lcd.req.release, clr := .start } s

/-! ## The runnable -/

/-- The step of an outstanding request (R230). -/
def requestStep (s : State) : Res State :=
  match s.lcd.req.state, s.lcd.req.type with
  | .busy, .write => writeStep s
  | .busy, .clear => .next (clearStep s)
  | .busy, .none => .next s
  | .idle, _ => .next s

/-- One invocation of the LCD runnable (R230, R252). -/
def lcdRun (s : State) : Res State :=
  match s.lcd.top with
  | .init => .next (initStep s)
  | .operational => requestStep s
  | .off => .next s

/-! ## Request commands -/

/-- Whether a new request is accepted (R246, R248). -/
def lcdFree (s : State) : Bool := decide (s.lcd.req.state = .idle) && decide (s.lcd.top = .operational)

/-- The slot a write request fills (R246). -/
def writeRequest (row col : Byte) (a0 a1 : Word) : LcdReq :=
  { ptr := a0, len := a1, row := row, col := col, pos := 0, state := .busy, type := .write }

/-- Step B of LCD.WRITE: line 3's writes and line 4 (R246, R249). -/
def lcdWriteB (row col : Byte) (a0 a1 : Word) (s : State) : Res State :=
  .next (ret (lcdCode .ok) (setLcd { s.lcd with req := writeRequest row col a0 a1 } s))

/-- Step B of LCD.CLEAR: line 1's writes and line 2 (R248, R249). -/
def lcdClearB (s : State) : Res State :=
  .next (ret (lcdCode .ok) (setLcd { s.lcd with req := { s.lcd.req with type := .clear, state := .busy } } s))

/-- `LCD.WRITE row, col` (R246). -/
def execLcdWrite (row col : Byte) (s : State) : Res State :=
  if s.port.a0 = 0 then .next (ret (lcdCode .nullPointer) s)
  else if s.cfg.lcdRows ≤ row.toNat ∨ s.cfg.lcdCols ≤ col.toNat then .next (ret (lcdCode .outOfRange) s)
  else if lcdFree s then
    acceptOrHold (.lcdWrite row col s.port.a0 s.port.a1) (lcdWriteB row col s.port.a0 s.port.a1) s
  else .next (ret (lcdCode .ok) s)

/-- `LCD.CLEAR` (R248). -/
def execLcdClear (s : State) : Res State :=
  if lcdFree s then acceptOrHold .lcdClear lcdClearB s else .next (ret (lcdCode .ok) s)

/-- `EV.LCDRUN` (R230). -/
def execEvLcdRun (s : State) : Res State := lcdRun s

end Sys2Proof.Machine
end

