-- ==== Sys2Proof/Machine/Callback.lean ====
section
/-! DEFINITION. `invoke cb`, the one way the block calls out (60_exceptions.md R286). -/

namespace Sys2Proof.Machine

/-- The scheduler's tick callback `SCHTICK` (R136). -/
def schTick (s : State) : State := { s with sch := { s.sch with pending := s.sch.pending + 1 } }

/-- `invoke cb` (R286): null does nothing, `SCHTICK` counts a tick, `CB_LCD` is one invocation of the LCD runnable,
any other identifier is opaque and changes nothing in this step (log 19). -/
def invoke (cb : Word) (s : State) : Res State :=
  if cb = 0 then .next s
  else if cb = s.cfg.schTick then .next (schTick s)
  else if cb = s.cfg.cbLcd then lcdRun s
  else .next s

end Sys2Proof.Machine
end

