-- ==== Sys2Proof/Machine/Scheduler.lean ====
section
/-! DEFINITION. Unit SCH (40_scheduler.md): SCH.INIT, SCH.START, EV.TICK, EV.SCHSTEP. -/

namespace Sys2Proof.Machine

/-- `SCH.INIT` (R131). -/
def execSchInit (s : State) : Res State :=
  .next (ret (schCode .ok) (stRegister s.cfg.schTick s.cfg.schSlot (stSetPeriod s.cfg.tickMs s)))

/-- Change the scheduler's state. -/
def setSch (c : Sched) (s : State) : State := { s with sch := c }

/-- `SCH.START` (R133): no return, so R0 is not written. -/
def execSchStart (s : State) : Res State :=
  if s.sch.phase = .stopped then
    .next (setSch { s.sch with phase := .poll, idx := 0 } (stStart s.cfg.stClkSrc s))
  else .refused .startTwice

/-- The registered callbacks in slot order (R135); `invoke` skips a null one, and none registers another. -/
def tickCallbacks (s : State) : Res State :=
  andThen (invoke s.st.cb0 s) fun t => andThen (invoke s.st.cb1 t) (invoke s.st.cb2)

/-- `EV.TICK` (R135). -/
def execEvTick (s : State) : Res State :=
  if s.st.running then tickCallbacks s else .refused (.notEnabled "EV.TICK")

/-- The Poll step (R137): begin a pass for one pending tick, or idle. -/
def pollStep (s : State) : State :=
  if s.sch.pending ≠ 0 then setSch { s.sch with pending := s.sch.pending - 1, idx := 0, phase := .pass } s else s

/-- Whether a row is due (R138): the accumulator is a multiple of its period. -/
def rowDue (elapsed : Word) (periodMs : Nat) : Bool := decide (elapsed.toNat % periodMs = 0)

/-- Dispatch of a due row (R138). -/
def dispatchRow (r : Runnable) (s : State) : Res State :=
  if rowDue s.sch.elapsedMs r.periodMs then invoke r.cb (emit (.run s.sch.idx) s) else .next s

/-- The row step (R138): examine row `sch.idx`. -/
def rowStep (r : Runnable) (s : State) : Res State :=
  if r.periodMs = 0 then .refused .badConfig
  else andThen (dispatchRow r s) fun t => .next (setSch { t.sch with idx := s.sch.idx + 1 } t)

/-- The end of a pass (R139). -/
def passEnd (s : State) : State :=
  setSch { s.sch with elapsedMs := s.sch.elapsedMs + s.cfg.tickMs, phase := .poll } s

/-- `EV.SCHSTEP` (R137 to R139). -/
def execEvSchStep (s : State) : Res State :=
  match s.sch.phase with
  | .stopped => .refused (.notEnabled "EV.SCHSTEP")
  | .poll => .next (pollStep s)
  | .pass =>
    match s.cfg.run[s.sch.idx]? with
    | some r => rowStep r s
    | none => if s.sch.idx = s.cfg.nRun then .next (passEnd s) else .refused (.idxUndefined s.sch.idx)

end Sys2Proof.Machine
end

