-- ==== Sys2Proof/Machine/Usart.lean ====
section
/-! DEFINITION. Unit US (41_usart.md): the divisor, US.INIT, the four transfer commands, the line events, the interrupt
handler and the spin of the blocking receive. -/

namespace Sys2Proof.Machine

/-! ## Initialization -/

/-- R165 after the split of the scaled divider: round half up, carry, range. -/
def brrRound (mant rem over' : Nat) : Option Half :=
  let frac := (rem * over' + 500) / 1000
  let m := if over' ≤ frac then mant + 1 else mant
  let f := if over' ≤ frac then 0 else frac
  if m = 0 ∨ 0xFFF < m then none else some (BitVec.ofNat 16 (m * 16 + f))

/-- `brr(pclk_hz, baud, over)` (R165); `none` is `ok = false`. -/
def brr (pclkHz baud over' : Nat) : Option Half :=
  if baud = 0 ∨ (over' ≠ 8 ∧ over' ≠ 16) then none
  else
    let scaled := pclkHz * 1000 / (over' * baud)
    brrRound (scaled / 1000) (scaled % 1000) over'

/-- Whether an entry of the configuration is one US.INIT can program (R166 line 1). -/
def ucfgOk (c : UCfg) : Bool := !c.present || (brr c.pclkHz c.baud c.oversampling).isSome

/-- R166 line 2 for one USART with divisor `v`. -/
def programWith (c : UCfg) (v : Half) (u : Usart) : Usart :=
  { ((((u.setCr bitOver8 (decide (c.oversampling = 8))).setCr bitWlen9 (decide (c.wordlen = .nine))).setCr bitParen
      (decide (c.parity ≠ .none))).setCr bitParsel (decide (c.parity = .odd))) with
    brr := v, stop := if c.stop = .two then 2 else 0 }

/-- R166 line 2 for one USART, if it is present. -/
def programUsart (c : UCfg) (u : Usart) : Usart :=
  if c.present then
    match brr c.pclkHz c.baud c.oversampling with
    | some v => programWith c v u
    | none => u
  else u

/-- R166 line 2 for all, in increasing order. -/
def programAll : List UCfg → List Usart → List Usart
  | c :: cs, u :: us => programUsart c u :: programAll cs us
  | _, us => us

/-- `US.INIT` (R166). -/
def execUsInit (s : State) : Res State :=
  if s.cfg.ucfg.all ucfgOk then .next (ret (usCode .ok) { s with us := programAll s.cfg.ucfg s.us })
  else .next (ret (usCode .invalidBaudRate) s)

/-! ## The shared checks -/

/-- V1 to V3 of R170, in that order: `bad` is V1's null condition, `slot` the slot of V3. -/
def transferCheck (bad : Bool) (i : Byte) (slot : Usart → Slot) (s : State) : Option UsStatus :=
  if bad then some .nullPointer
  else
    match usart? s i with
    | none => some .invalidNumber
    | some u => if (slot u).state = .idle then none else some .busy

/-- V1 of the blocking commands (R170). -/
def nullBlocking (s : State) : Bool := decide (s.port.a0 = 0)

/-- V1 of the asynchronous commands (R170). -/
def nullAsync (s : State) : Bool := decide (s.port.a0 = 0) || decide (s.port.a2 = 0)

/-! ## Blocking send -/

/-- R173 line 3: TXEN set, and line 2: Busy. -/
def Usart.beginSendB (u : Usart) : Usart := { u.setCr bitTxen true with tx := { u.tx with state := .busy } }

/-- R173 line 6. -/
def Usart.endSendB (u : Usart) : Usart := { u with tx := { u.tx with state := .idle } }

/-- Step B of US.SENDB: R173 lines 2 to 7. -/
def sendBStepB (i : Byte) (a0 : Word) (s : State) : Res State :=
  withUs s i fun _ =>
    andThen (load s a0) fun b =>
      andThen (writeDR i b (modUs i Usart.beginSendB s)) fun t =>
        .next (ret (usCode .ok) (modUs i Usart.endSendB t))

/-- `US.SENDB i` (R173). -/
def execUsSendB (i : Byte) (s : State) : Res State :=
  match transferCheck (nullBlocking s) i Usart.tx s with
  | some c => .next (ret (usCode c) s)
  | none => acceptOrHold (.sendB i (byteAddr s)) (sendBStepB i (byteAddr s)) s

/-! ## Blocking receive -/

/-- R176 lines 2 to 4. -/
def Usart.beginRecvB (a0 : Word) (u : Usart) : Usart :=
  { u.setCr bitRxen true with
    rx := { u.rx with state := .busy }, rb := { phase := .spinning, spin := 0, buf := a0 } }

/-- Step B of US.RECVB: R176 lines 2 to 4; no return. -/
def recvBStepB (i : Byte) (a0 : Word) (s : State) : Res State :=
  withUs s i fun _ => .next (modUs i (Usart.beginRecvB a0) s)

/-- `US.RECVB i` (R176). -/
def execUsRecvB (i : Byte) (s : State) : Res State :=
  match transferCheck (nullBlocking s) i Usart.rx s with
  | some c => .next (ret (usCode c) s)
  | none => acceptOrHold (.recvB i (byteAddr s)) (recvBStepB i (byteAddr s)) s

/-- R178 lines 3 to 5. -/
def Usart.endRecvB (fix : Bool) (u : Usart) : Usart :=
  { u.disableRxAfterRecvB fix with rx := { u.rx with state := .idle }, rb := { u.rb with phase := .none } }

/-- `finish(i, code)` (R178). -/
def finishRecvB (i : Byte) (code : UsStatus) (s : State) : Res State :=
  withUs s i fun u =>
    andThen (readDR i s) fun r =>
      andThen (store (rbAddr u) r.1 r.2) fun t =>
        .next (ret (usCode code) (modUs i (Usart.endRecvB s.cfg.recvbFix) t))

/-- R177's third branch. -/
def Usart.spinOnce (u : Usart) : Usart := { u with rb := { u.rb with spin := u.rb.spin + 1 } }

/-- `EV.POLL i` (R177). -/
def execEvPoll (i : Byte) (s : State) : Res State :=
  withUs s i fun u =>
    if u.rb.phase ≠ .spinning then .refused (.notEnabled "EV.POLL")
    else if u.rb.spin = s.cfg.rxBudget then finishRecvB i .timeOut s
    else if u.rxne then finishRecvB i .ok s
    else .next (modUs i Usart.spinOnce s)

/-! ## Asynchronous transfers -/

/-- R182 lines 3 to 5. -/
def Usart.beginSendA (a0 a1 a2 : Word) (u : Usart) : Usart :=
  { u.setCr bitTxen true with tx := { u.tx with buf := a0, size := a1, cb := a2, state := .busy } }

/-- R182 lines 7 and 8. -/
def Usart.armSendA (u : Usart) : Usart := { u.setCr bitTcie true with tx := { u.tx with pos := 1 } }

/-- Step B of US.SENDA: R182 lines 2 to 9. -/
def sendAStepB (i : Byte) (a0 a1 a2 : Word) (s : State) : Res State :=
  withUs s i fun _ =>
    if a1 = 0 then .refused .zeroSize
    else
      andThen (load s (eagerAddr a0)) fun b =>
        andThen (writeDR i b (modUs i (Usart.beginSendA a0 a1 a2) s)) fun t =>
          .next (ret (usCode .ok) (modUs i Usart.armSendA t))

/-- `US.SENDA i` (R182). -/
def execUsSendA (i : Byte) (s : State) : Res State :=
  match transferCheck (nullAsync s) i Usart.tx s with
  | some c => .next (ret (usCode c) s)
  | none =>
    acceptOrHold (.sendA i s.port.a0 s.port.a1 s.port.a2) (sendAStepB i s.port.a0 s.port.a1 s.port.a2) s

/-- R186 lines 2 to 5. -/
def Usart.beginRecvA (a0 a1 a2 : Word) (u : Usart) : Usart :=
  { (u.setCr bitRxen true).setCr bitRxneie true with
    rx := { buf := a0, size := a1, cb := a2, pos := 0, state := .busy } }

/-- Step B of US.RECVA: R186 lines 2 to 6. -/
def recvAStepB (i : Byte) (a0 a1 a2 : Word) (s : State) : Res State :=
  withUs s i fun _ => .next (ret (usCode .ok) (modUs i (Usart.beginRecvA a0 a1 a2) s))

/-- `US.RECVA i` (R186). -/
def execUsRecvA (i : Byte) (s : State) : Res State :=
  match transferCheck (nullAsync s) i Usart.rx s with
  | some c => .next (ret (usCode c) s)
  | none =>
    acceptOrHold (.recvA i s.port.a0 s.port.a1 s.port.a2) (recvAStepB i s.port.a0 s.port.a1 s.port.a2) s

/-! ## Line events -/

/-- R195. -/
def Usart.endFrame (u : Usart) : Usart := { u with txInflight := none, tc := true }

/-- `EV.TXDONE i` (R195). -/
def execEvTxDone (i : Byte) (s : State) : Res State :=
  withUs s i fun u =>
    if u.txInflight = none then .refused (.notEnabled "EV.TXDONE") else .next (modUs i Usart.endFrame s)

/-- The receiver takes a byte (R196's second branch). -/
def Usart.takeByte (d : Byte) (u : Usart) : Usart := { u with drRx := d, rxne := true }

/-- The receiver meets an unread byte (R196's third branch): the new byte or the old one, by the draw. -/
def Usart.drawByte (takeNew : Bool) (d : Byte) (u : Usart) : Usart :=
  { u with drRx := if takeNew then d else u.drRx }

/-- `EV.RXBYTE i, d` (R196); the draw is a free value (log 8). -/
def execEvRxByte (i d : Byte) (s : State) : Res State :=
  withUs s i fun u =>
    if crBit u.cr bitRxen = false then .next s
    else if u.rxne = false then .next (modUs i (Usart.takeByte d) s)
    else .next { modUs i (Usart.drawByte (Config.rxDraw s.draws) d) s with draws := s.draws + 1 }

/-! ## The interrupt handler -/

/-- R191: `tx.pos <- tx.pos + 1`. -/
def Usart.txAdvance (u : Usart) : Usart := { u with tx := { u.tx with pos := u.tx.pos + 1 } }

/-- R191's completion: TXEN and TCIE cleared, slot Idle. -/
def Usart.txComplete (u : Usart) : Usart :=
  { (u.setCr bitTxen false).setCr bitTcie false with tx := { u.tx with state := .idle } }

/-- A completion callback, skipped if null (R191, R192, R276). -/
def completionCallback (ev : Event) (cb : Word) (s : State) : Res State :=
  if cb = 0 then .next s else invoke cb (emit ev s)

/-- The Tx branch (R191). -/
def txBranch (i : Byte) (s : State) : Res State :=
  withUs s i fun u =>
    if u.tx.pos < u.tx.size then
      andThen (load s (txAddr u)) fun b =>
        andThen (writeDR i b s) fun t => .next (modUs i Usart.txAdvance t)
    else completionCallback (.txCb i u.tx.cb) u.tx.cb (modUs i Usart.txComplete s)

/-- R192: `rx.pos <- rx.pos + 1`. -/
def Usart.rxAdvance (u : Usart) : Usart := { u with rx := { u.rx with pos := u.rx.pos + 1 } }

/-- R192's completion: RXEN and RXNEIE cleared, slot Idle. -/
def Usart.rxComplete (u : Usart) : Usart :=
  { (u.setCr bitRxen false).setCr bitRxneie false with rx := { u.rx with state := .idle } }

/-- `complete_rx` (R192). -/
def completeRx (i : Byte) (cb : Word) (s : State) : Res State :=
  completionCallback (.rxCb i cb) cb (modUs i Usart.rxComplete s)

/-- The Rx branch (R192). -/
def rxBranch (i : Byte) (s : State) : Res State :=
  withUs s i fun u =>
    if u.rx.pos < u.rx.size then
      andThen (readDR i s) fun r =>
        andThen (store (rxAddr u) r.1 r.2) fun t =>
          if s.cfg.rxCompleteEager ∧ u.rx.pos + 1 = u.rx.size then
            completeRx i u.rx.cb (modUs i Usart.rxAdvance t)
          else .next (modUs i Usart.rxAdvance t)
    else completeRx i u.rx.cb s

/-- R190 line 1. -/
def irqTx (i : Byte) (s : State) : Res State :=
  withUs s i fun u => if gated s.cfg.irqGate u.tc (crBit u.cr bitTcie) then txBranch i s else .next s

/-- R190 line 2, on the state after line 1. -/
def irqRx (i : Byte) (s : State) : Res State :=
  withUs s i fun u => if gated s.cfg.irqGate u.rxne (crBit u.cr bitRxneie) then rxBranch i s else .next s

/-- `EV.IRQ i` (R190). -/
def execEvIrq (i : Byte) (s : State) : Res State :=
  withUs s i fun _ =>
    if irqPending s i then andThen (irqTx i s) (irqRx i) else .refused (.notEnabled "EV.IRQ")

end Sys2Proof.Machine
end

