-- ==== Sys2Proof/Syntax.lean ====
section
/-! DEFINITION. The operations of the block, one constructor per row of 30_encoding.md R103 (opcode_table.json), with
the word fields of R101 and R102 that the row uses. -/

namespace Sys2Proof

/-- A decoded command or event word (R100, R110). -/
inductive Instr where
  | schInit
  | schStart
  | usInit
  | usSendB (inst : Byte)
  | usRecvB (inst : Byte)
  | usSendA (inst : Byte)
  | usRecvA (inst : Byte)
  | lcdWrite (row col : Byte)
  | lcdClear
  | evTick
  | evSchStep
  | evTxDone (inst : Byte)
  | evRxByte (inst data : Byte)
  | evIrq (inst : Byte)
  | evLcdRun
  | evPoll (inst : Byte)
deriving DecidableEq, Repr

/-- The agents of R11. -/
inductive Agent where
  | host
  | tickSrc
  | main
  | line (i : Byte)
  | irq (i : Byte)
  /-- `EV.LCDRUN` used directly is driven by the environment (R230). -/
  | environment
deriving DecidableEq, Repr

/-- The agent whose step an operation is (R11, R135, R137, R177, R190, R195, R196, R230). -/
def Instr.agent : Instr → Agent
  | .schInit => .host
  | .schStart => .host
  | .usInit => .host
  | .usSendB _ => .host
  | .usRecvB _ => .host
  | .usSendA _ => .host
  | .usRecvA _ => .host
  | .lcdWrite _ _ => .host
  | .lcdClear => .host
  | .evTick => .tickSrc
  | .evSchStep => .main
  | .evTxDone i => .line i
  | .evRxByte i _ => .line i
  | .evIrq i => .irq i
  | .evLcdRun => .environment
  | .evPoll _ => .host

end Sys2Proof
end

