-- ==== Sys2Proof/Machine/Dispatch.lean ====
section
/-! DEFINITION. One arm per operation (30_encoding.md R103). -/

namespace Sys2Proof.Machine

def exec (i : Instr) (s : State) : Host.Outcome State Fault Refusal :=
  match i with
  | .schInit => Sys2Proof.Machine.execSchInit s
  | .schStart => Sys2Proof.Machine.execSchStart s
  | .usInit => Sys2Proof.Machine.execUsInit s
  | .usSendB inst => Sys2Proof.Machine.execUsSendB inst s
  | .usRecvB inst => Sys2Proof.Machine.execUsRecvB inst s
  | .usSendA inst => Sys2Proof.Machine.execUsSendA inst s
  | .usRecvA inst => Sys2Proof.Machine.execUsRecvA inst s
  | .lcdWrite row col => Sys2Proof.Machine.execLcdWrite row col s
  | .lcdClear => Sys2Proof.Machine.execLcdClear s
  | .evTick => Sys2Proof.Machine.execEvTick s
  | .evSchStep => Sys2Proof.Machine.execEvSchStep s
  | .evTxDone inst => Sys2Proof.Machine.execEvTxDone inst s
  | .evRxByte inst data => Sys2Proof.Machine.execEvRxByte inst data s
  | .evIrq inst => Sys2Proof.Machine.execEvIrq inst s
  | .evLcdRun => Sys2Proof.Machine.execEvLcdRun s
  | .evPoll inst => Sys2Proof.Machine.execEvPoll inst s

end Sys2Proof.Machine
end

