-- ==== Sys2Proof/WellFormed.lean ====
section
/-! DEFINITION. Which operations a machine with `n` USART instances has (30_encoding.md R106, R110). -/

namespace Sys2Proof

/-- Every field fits its encoding by type. A command may name any `inst` (the operation itself returns
InvalidNumber); an event word whose `inst` is at or above `N_USART` names no agent and is illegal (R106, R110). -/
def Instr.wf (n : Nat) : Instr → Bool
  | .schInit => true
  | .schStart => true
  | .usInit => true
  | .usSendB _ => true
  | .usRecvB _ => true
  | .usSendA _ => true
  | .usRecvA _ => true
  | .lcdWrite _ _ => true
  | .lcdClear => true
  | .evTick => true
  | .evSchStep => true
  | .evTxDone i => decide (i.toNat < n)
  | .evRxByte i _ => decide (i.toNat < n)
  | .evIrq i => decide (i.toNat < n)
  | .evLcdRun => true
  | .evPoll i => decide (i.toNat < n)

end Sys2Proof
end

