-- ==== Sys2Proof/Decode.lean ====
section
/-! DEFINITION. The decoder (30_encoding.md R110), total on every 32-bit word and rejecting by name (R106); the
encoder, from the same formats (R101, R102); and the opcode table as R103 prints it. -/

namespace Sys2Proof

/-- Why a word is illegal (R106). -/
inductive DecodeError where
  /-- Unit values 0x0, 0x4 to 0xD and 0xF. -/
  | unknownUnit (unit : BitVec 4)
  /-- Unit 1 with fn above 1, unit 2 with fn above 4, unit 3 with fn above 1, unit 0xE with ev above 6. -/
  | unknownFunction (unit fn : BitVec 4)
  /-- A nonzero bit in a field that the row requires to be 0. -/
  | nonzeroMbz (w : Word)
deriving DecidableEq, Repr

/-- `unit`, bits 31:28 (R101, R102). -/
def unitOf (w : Word) : BitVec 4 := w.extractLsb' 28 4

/-- `fn` or `ev`, bits 27:24 (R101, R102). -/
def fnOf (w : Word) : BitVec 4 := w.extractLsb' 24 4

/-- `inst`, bits 23:16 (R101, R102). -/
def instOf (w : Word) : Byte := w.extractLsb' 16 8

/-- `row`, bits 15:8 (R101); must be zero in format E (R102). -/
def rowOf (w : Word) : Byte := w.extractLsb' 8 8

/-- `col` or `data`, bits 7:0 (R101, R102). -/
def lowOf (w : Word) : Byte := w.extractLsb' 0 8

/-- Answer `i` if every named field is zero, the must-be-zero fields of the row. -/
def requireZero (w : Word) (fields : List Byte) (i : Instr) : Except DecodeError Instr :=
  if fields.all (fun b => b == 0) then .ok i else .error (.nonzeroMbz w)

/-- A row without operands: bits 23:0 must be zero. -/
def decodePlain (w : Word) (i : Instr) : Except DecodeError Instr :=
  requireZero w [instOf w, rowOf w, lowOf w] i

/-- A row with an `inst` operand alone: bits 15:0 must be zero. -/
def decodeInst (w : Word) (i : Byte → Instr) : Except DecodeError Instr :=
  requireZero w [rowOf w, lowOf w] (i (instOf w))

/-- R110: the operation a 32-bit word denotes. -/
def decode (w : Word) : Except DecodeError Instr :=
  match (unitOf w).toNat, (fnOf w).toNat with
  | 0x1, 0 => decodePlain w .schInit
  | 0x1, 1 => decodePlain w .schStart
  | 0x2, 0 => decodePlain w .usInit
  | 0x2, 1 => decodeInst w .usSendB
  | 0x2, 2 => decodeInst w .usRecvB
  | 0x2, 3 => decodeInst w .usSendA
  | 0x2, 4 => decodeInst w .usRecvA
  | 0x3, 0 => requireZero w [instOf w] (.lcdWrite (rowOf w) (lowOf w))
  | 0x3, 1 => decodePlain w .lcdClear
  | 0xE, 0 => decodePlain w .evTick
  | 0xE, 1 => decodePlain w .evSchStep
  | 0xE, 2 => decodeInst w .evTxDone
  | 0xE, 3 => requireZero w [rowOf w] (.evRxByte (instOf w) (lowOf w))
  | 0xE, 4 => decodeInst w .evIrq
  | 0xE, 5 => decodePlain w .evLcdRun
  | 0xE, 6 => decodeInst w .evPoll
  | 0x1, _ => .error (.unknownFunction (unitOf w) (fnOf w))
  | 0x2, _ => .error (.unknownFunction (unitOf w) (fnOf w))
  | 0x3, _ => .error (.unknownFunction (unitOf w) (fnOf w))
  | 0xE, _ => .error (.unknownFunction (unitOf w) (fnOf w))
  | _, _ => .error (.unknownUnit (unitOf w))

/-- A word laid out as R101 and R102 give the fields, from bit 31 down. -/
def wordOf (unit fn : BitVec 4) (inst row low : Byte) : Word :=
  (unit ++ fn : Byte) ++ inst ++ row ++ low

/-- The word of an operation (R103, R108). -/
def encode : Instr → Word
  | .schInit => wordOf 0x1 0 0 0 0
  | .schStart => wordOf 0x1 1 0 0 0
  | .usInit => wordOf 0x2 0 0 0 0
  | .usSendB i => wordOf 0x2 1 i 0 0
  | .usRecvB i => wordOf 0x2 2 i 0 0
  | .usSendA i => wordOf 0x2 3 i 0 0
  | .usRecvA i => wordOf 0x2 4 i 0 0
  | .lcdWrite r c => wordOf 0x3 0 0 r c
  | .lcdClear => wordOf 0x3 1 0 0 0
  | .evTick => wordOf 0xE 0 0 0 0
  | .evSchStep => wordOf 0xE 1 0 0 0
  | .evTxDone i => wordOf 0xE 2 i 0 0
  | .evRxByte i d => wordOf 0xE 3 i 0 d
  | .evIrq i => wordOf 0xE 4 i 0 0
  | .evLcdRun => wordOf 0xE 5 0 0 0
  | .evPoll i => wordOf 0xE 6 i 0 0

/-- One row of the opcode map: `w` is this operation when `w &&& mask = pattern`. -/
structure OpcodeRow where
  mnemonic : String
  pattern : Word
  mask : Word
deriving DecidableEq, Repr

/-- The opcode map of R103, in its order. -/
def opcodeRows : List OpcodeRow :=
  [ { mnemonic := "SCH.INIT", pattern := 0x10000000, mask := 0xFFFFFFFF },
    { mnemonic := "SCH.START", pattern := 0x11000000, mask := 0xFFFFFFFF },
    { mnemonic := "US.INIT", pattern := 0x20000000, mask := 0xFFFFFFFF },
    { mnemonic := "US.SENDB", pattern := 0x21000000, mask := 0xFF00FFFF },
    { mnemonic := "US.RECVB", pattern := 0x22000000, mask := 0xFF00FFFF },
    { mnemonic := "US.SENDA", pattern := 0x23000000, mask := 0xFF00FFFF },
    { mnemonic := "US.RECVA", pattern := 0x24000000, mask := 0xFF00FFFF },
    { mnemonic := "LCD.WRITE", pattern := 0x30000000, mask := 0xFFFF0000 },
    { mnemonic := "LCD.CLEAR", pattern := 0x31000000, mask := 0xFFFFFFFF },
    { mnemonic := "EV.TICK", pattern := 0xE0000000, mask := 0xFFFFFFFF },
    { mnemonic := "EV.SCHSTEP", pattern := 0xE1000000, mask := 0xFFFFFFFF },
    { mnemonic := "EV.TXDONE", pattern := 0xE2000000, mask := 0xFF00FFFF },
    { mnemonic := "EV.RXBYTE", pattern := 0xE3000000, mask := 0xFF00FF00 },
    { mnemonic := "EV.IRQ", pattern := 0xE4000000, mask := 0xFF00FFFF },
    { mnemonic := "EV.LCDRUN", pattern := 0xE5000000, mask := 0xFFFFFFFF },
    { mnemonic := "EV.POLL", pattern := 0xE6000000, mask := 0xFF00FFFF } ]

/-- The mnemonic R110's walk of the table finds for a word, if any. -/
def mnemonicInTable (w : Word) : Option String :=
  (opcodeRows.find? (fun r => w &&& r.mask == r.pattern)).map (fun r => r.mnemonic)

/-- The mnemonic of an operation (R103). -/
def Instr.mnemonic : Instr → String
  | .schInit => "SCH.INIT"
  | .schStart => "SCH.START"
  | .usInit => "US.INIT"
  | .usSendB _ => "US.SENDB"
  | .usRecvB _ => "US.RECVB"
  | .usSendA _ => "US.SENDA"
  | .usRecvA _ => "US.RECVA"
  | .lcdWrite _ _ => "LCD.WRITE"
  | .lcdClear => "LCD.CLEAR"
  | .evTick => "EV.TICK"
  | .evSchStep => "EV.SCHSTEP"
  | .evTxDone _ => "EV.TXDONE"
  | .evRxByte _ _ => "EV.RXBYTE"
  | .evIrq _ => "EV.IRQ"
  | .evLcdRun => "EV.LCDRUN"
  | .evPoll _ => "EV.POLL"

/-- What the decoder reads from a table row's `nbits` bits `w`; bits above `nbits` are 0. Every word is one 32-bit
value of the port, so there is no layout in bytes (R75, R100). -/
def decodeTableWord (nbits w : Nat) : Option Instr :=
  match decode (BitVec.ofNat 32 (w % 2 ^ nbits)) with
  | .ok i => some i
  | .error _ => none

end Sys2Proof
end

