-- ==== Sys2Proof/Machine/Accept.lean ====
section
/-! DEFINITION. Step B of an accept operation with `ACCEPT_ATOMIC = false` (41_usart.md R171, 42_lcd.md R249). -/

namespace Sys2Proof.Machine

/-- Everything after the checks, without testing the slot again (R171, R249). -/
def acceptStepB (a : Accept) (s : State) : Res State :=
  match a with
  | .sendB i a0 => sendBStepB i a0 s
  | .recvB i a0 => recvBStepB i a0 s
  | .sendA i a0 a1 a2 => sendAStepB i a0 a1 a2 s
  | .recvA i a0 a1 a2 => recvAStepB i a0 a1 a2 s
  | .lcdWrite row col a0 a1 => lcdWriteB row col a0 a1 s
  | .lcdClear => lcdClearB s

/-- The k-th pending accept operation takes its step B and is no longer pending (log 9). -/
def continueAccept (k : Nat) (s : State) : Res State :=
  match s.accepts[k]? with
  | some a => acceptStepB a { s with accepts := s.accepts.eraseIdx k }
  | none => .refused (.noSuchAccept k)

end Sys2Proof.Machine
end

