-- ==== Sys2Proof/Machine/Fetch.lean ====
section
/-! DEFINITION. What the next step of the machine is: the oldest input (30_encoding.md R100, 00_scope.md R11; log 1, 2),
and how a word is placed there. -/

namespace Sys2Proof.Machine

/-- What a step does. -/
inductive Action where
  /-- Nothing is presented and no agent steps. -/
  | idle
  /-- The step has no meaning. -/
  | stop (r : Refusal)
  /-- An operation runs at the given state. -/
  | run (i : Instr) (s : State)
  /-- The HOST does something other than presenting a word. -/
  | other (o : Res State)

/-- A word: an operation of this machine, or illegal (R106, R110). -/
def wordAction (w : Word) (s : State) : Action :=
  match decode w with
  | .ok i => if i.wf s.cfg.nUsart then .run i s else .stop (.illegalWord w)
  | .error _ => .stop (.illegalWord w)

/-- One input. -/
def inputAction (x : Input) (s : State) : Action :=
  match x with
  | .word w => wordAction w s
  | .operand r v => .other (.next (setOperand r v s))
  | .bufWrite a b => .other (store a b s)
  | .accept k => .other (continueAccept k s)

/-- The next input is taken from `env`; a configuration the model refuses has no step (R277, log 11). -/
def nextAction (s : State) : Action :=
  if configOk s.cfg = false then .stop .badConfig
  else
    match s.env with
    | [] => .idle
    | x :: rest => inputAction x { s with env := rest }

/-- `s` with the table row's bits `w` as the next word presented. -/
def placeWord (s : State) (nbits w : Nat) : State :=
  { s with env := .word (BitVec.ofNat 32 (w % 2 ^ nbits)) :: s.env }

end Sys2Proof.Machine
end

