-- ==== Sys2Proof/Machine/Step.lean ====
section
/-! DEFINITION. One step of the machine: its next action, with the operations run by `exec` (00_scope.md R11). -/

namespace Sys2Proof.Machine

/-- Carry out an action at a state that stands still where there is nothing to do. -/
def perform (s : State) (a : Action) : Host.Outcome State Fault Refusal :=
  match a with
  | .idle => .next s
  | .stop r => .refused r
  | .run i t => exec i t
  | .other o => o

/-- One step. -/
def step (s : State) : Host.Outcome State Fault Refusal := perform s (nextAction s)

/-- One labelled step of the transition system: the environment does `x`. -/
def applyInput (x : Input) (s : State) : Host.Outcome State Fault Refusal := perform s (inputAction x s)

/-- `s` with the table row's bits `w` as the word the next step presents. -/
def State.withFetchWord (s : State) (nbits w : Nat) : State := placeWord s nbits w

end Sys2Proof.Machine
end

