-- ==== Sys2Proof/Machine/Script.lean ====
section
/-! DEFINITION. The script lines and pseudo-operations of 30_encoding.md R108 and R109. -/

namespace Sys2Proof.Machine

/-- A word of an operation as an input. -/
def wordInput (i : Instr) : Input := .word (encode i)

/-- The write of an operand register a script line may carry (R108). -/
def operandInput (r : OpReg) : Option Word → List Input
  | some v => [.operand r v]
  | none => []

/-- One script line: the operand values the HOST wrote, then the word (R108). -/
def scriptLine (i : Instr) (a0 a1 a2 : Option Word) : List Input :=
  operandInput .a0 a0 ++ operandInput .a1 a1 ++ operandInput .a2 a2 ++ [wordInput i]

/-! ## Pseudo-operations, as the operations they expand to -/

/-- `ticks <n>` (R109). -/
def scriptTicks (n : Nat) : List Instr := List.replicate n .evTick

/-- `lcdrun <n>` (R109). -/
def scriptLcdRun (n : Nat) : List Instr := List.replicate n .evLcdRun

/-- `txbyte u<i>` (R109). -/
def scriptTxByte (i : Byte) : List Instr := [.evTxDone i, .evIrq i]

/-- `rxbyte u<i>, <b>` (R109). -/
def scriptRxByte (i b : Byte) : List Instr := [.evRxByte i b, .evIrq i]

/-- The until-condition of `drain` (R109). -/
def drained (s : State) : Bool := decide (s.sch.phase = .poll) && decide (s.sch.pending = 0)

/-- `drain` at a state, if it ends within `bound` words (R109): `ev.schstep` until the condition holds. There is no
such expansion where an `ev.schstep` that is due has no step, as in Stopped (R137). -/
def scriptDrain (bound : Nat) (s : State) : Option (List Instr) :=
  if drained s then some []
  else
    match bound with
    | 0 => none
    | n + 1 =>
      match execEvSchStep s with
      | .next t => (scriptDrain n t).map (fun ws => .evSchStep :: ws)
      | .fault _ => none
      | .refused _ => none

/-- How many words `drain` is where no row's callback is SCHTICK and none is stuck: the rest of the pass in progress, then
1 + N_RUN + 1 words for each pending tick (R109; log 28); none in Stopped, where `drain` is not legal. -/
def drainLength (s : State) : Option Nat :=
  match s.sch.phase with
  | .stopped => none
  | .poll => some (s.sch.pending.toNat * (s.cfg.nRun + 2))
  | .pass => some ((s.cfg.nRun - s.sch.idx + 1) + s.sch.pending.toNat * (s.cfg.nRun + 2))

/-! ## Script text -/

/-- `u<i>`. -/
def usartText (i : Byte) : String := "u" ++ toString i.toNat

/-- `, a0=<v>` and its like. -/
def operandText (name : String) (v : Word) : String := ", " ++ name ++ "=" ++ toString v.toNat

/-- The script text of a line, numbers in decimal (R108). -/
def scriptText (i : Instr) (a0 a1 a2 : Word) : String :=
  match i with
  | .schInit => "sch.init"
  | .schStart => "sch.start"
  | .usInit => "us.init"
  | .usSendB i => "us.sendb " ++ usartText i ++ operandText "a0" a0
  | .usRecvB i => "us.recvb " ++ usartText i ++ operandText "a0" a0
  | .usSendA i =>
    "us.senda " ++ usartText i ++ operandText "a0" a0 ++ operandText "a1" a1 ++ operandText "a2" a2
  | .usRecvA i =>
    "us.recva " ++ usartText i ++ operandText "a0" a0 ++ operandText "a1" a1 ++ operandText "a2" a2
  | .lcdWrite row col =>
    "lcd.write r" ++ toString row.toNat ++ ", c" ++ toString col.toNat ++ operandText "a0" a0 ++ operandText "a1" a1
  | .lcdClear => "lcd.clear"
  | .evTick => "ev.tick"
  | .evSchStep => "ev.schstep"
  | .evTxDone i => "ev.txdone " ++ usartText i
  | .evRxByte i d => "ev.rxbyte " ++ usartText i ++ ", " ++ toString d.toNat
  | .evIrq i => "ev.irq " ++ usartText i
  | .evLcdRun => "ev.lcdrun"
  | .evPoll i => "ev.poll " ++ usartText i

end Sys2Proof.Machine
end

