-- ==== Sys2Proof/Safety.lean ====
section
/-! DEFINITION. The terms of claims about runs: the invariants of the reachable states, the guards of the steps, what
two states share, runs and the fairness premises. -/

namespace Sys2Proof.Machine

/-! ## Invariants -/

/-- The relations R49, R40, R41, R46, R48 and R252 state between the LCD's fields, with the row a request may hold
(R225, R246). -/
abbrev LcdInv (s : State) : Prop :=
  (s.lcd.strobe = .high ↔ s.lcd.e = true) ∧
  (s.lcd.req.state = .busy → s.lcd.top = .operational ∧ (s.lcd.req.type = .write ∨ s.lcd.req.type = .clear)) ∧
  (s.lcd.req.state = .idle → s.lcd.req.type = .none) ∧
  s.lcd.req.pos ≤ s.lcd.req.len ∧
  s.lcd.req.row.toNat < 4 ∧
  s.lcd.top ≠ .off ∧
  (s.lcd.init = .functionSet2 → s.cfg.lcdMode = .four) ∧
  (s.cfg.lcdMode = .eight → s.lcd.hiNibble = true) ∧
  (s.cfg.lcdMode = .four → s.lcd.d.extractLsb' 0 4 = 0)

/-- The PowerOn count stays below its threshold while it counts, and never passes it (R42, R231). -/
abbrev PowerOnInv (s : State) : Prop :=
  s.lcd.pwrCnt ≤ s.cfg.lcdPoweronTicks ∧ (s.lcd.init = .powerOn → s.lcd.pwrCnt < s.cfg.lcdPoweronTicks)

/-- What a pending LCD accept operation has checked still holds (R249): init is over, and the row is in range. -/
def acceptChecked (s : State) : Accept → Bool
  | .lcdWrite row _ _ _ => decide (s.lcd.top = .operational) && decide (row.toNat < s.cfg.lcdRows)
  | .lcdClear => decide (s.lcd.top = .operational)
  | .sendB _ _ => true
  | .recvB _ _ => true
  | .sendA _ _ _ _ => true
  | .recvA _ _ _ _ => true

/-- Every pending accept operation passed its checks (R249). -/
abbrev AcceptInv (s : State) : Prop := ∀ a ∈ s.accepts, acceptChecked s a = true

/-- One USART (R29, R30, R32, R35, R177): the Tx-complete flag says that no frame is in flight; the positions stay in
their slots; STOP is 0 or 2; a spin is within its budget. -/
abbrev UsartInv (c : Config) (u : Usart) : Prop :=
  (u.tc = true ↔ u.txInflight = none) ∧ u.tx.pos ≤ u.tx.size ∧ u.rx.pos ≤ u.rx.size ∧ (u.stop = 0 ∨ u.stop = 2) ∧
    (u.rb.phase = .spinning → u.rb.spin ≤ c.rxBudget)

/-- There are N_USART records, each with its invariant (R20, R28). -/
abbrev UsInv (s : State) : Prop := s.us.length = s.cfg.nUsart ∧ ∀ u ∈ s.us, UsartInv s.cfg u

/-- `sch.idx` is in 0..N_RUN (R25). -/
abbrev SchInv (s : State) : Prop := s.sch.idx ≤ s.cfg.nRun

/-- BUF is in its canonical form (R70). -/
abbrev BufInv (s : State) : Prop := Memory.wf s.buf = true

/-- The invariant of the machine. -/
abbrev Inv (s : State) : Prop := LcdInv s ∧ PowerOnInv s ∧ AcceptInv s ∧ UsInv s ∧ SchInv s ∧ BufInv s

/-! ## What two states share -/

/-- The configuration and the model's own input fields. -/
abbrev SameFrame (s t : State) : Prop := t.cfg = s.cfg ∧ t.env = s.env

/-- The operand registers, which the block never writes (R21). -/
abbrev SameOperands (s t : State) : Prop := t.port.a0 = s.port.a0 ∧ t.port.a1 = s.port.a1 ∧ t.port.a2 = s.port.a2

/-- Every byte of BUF. -/
abbrev SameBuf (s t : State) : Prop := ∀ a : Nat, bufByte t.buf a = bufByte s.buf a

/-- Every byte of BUF but the one at `x`. -/
abbrev SameBufBut (x : Word) (s t : State) : Prop := ∀ a : Nat, a ≠ x.toNat → bufByte t.buf a = bufByte s.buf a

/-- Every USART but `i` (R160). -/
abbrev SameOtherUs (i : Byte) (s t : State) : Prop :=
  t.us.length = s.us.length ∧ ∀ j : Byte, j ≠ i → usart? t j = usart? s j

/-- The part of a USART that US.INIT alone writes: divisor, stop bits, and the format fields of CR (R28, R31, R32). -/
abbrev SameFormat (u v : Usart) : Prop :=
  v.brr = u.brr ∧ v.stop = u.stop ∧ crBit v.cr bitOver8 = crBit u.cr bitOver8 ∧
    crBit v.cr bitWlen9 = crBit u.cr bitWlen9 ∧ crBit v.cr bitParen = crBit u.cr bitParen ∧
    crBit v.cr bitParsel = crBit u.cr bitParsel

/-- The bits of two control registers agree but for those in `ks`. -/
abbrev SameCrBut (ks : List Nat) (u v : Usart) : Prop := ∀ k : Nat, k ∉ ks → crBit v.cr k = crBit u.cr k

/-! ## What a handler run reaches (R190 to R192) -/

/-- The Tx branch runs and completes, so that its callback is reached. -/
abbrev TxCompletes (c : Config) (u : Usart) : Prop :=
  gated c.irqGate u.tc (crBit u.cr bitTcie) = true ∧ ¬ u.tx.pos < u.tx.size

/-- The Rx branch runs and stores a byte. -/
abbrev RxStores (c : Config) (u : Usart) : Prop :=
  gated c.irqGate u.rxne (crBit u.cr bitRxneie) = true ∧ u.rx.pos < u.rx.size

/-- The Rx branch runs and completes, so that its callback is reached. -/
abbrev RxCompletes (c : Config) (u : Usart) : Prop :=
  gated c.irqGate u.rxne (crBit u.cr bitRxneie) = true ∧
    (¬ u.rx.pos < u.rx.size ∨ (c.rxCompleteEager = true ∧ u.rx.pos + 1 = u.rx.size))

/-! ## Guards -/

/-- The guard of an operation's rule (R131 to R137, R173 to R196, R230, R246, R248). -/
def enabled (i : Instr) (s : State) : Bool :=
  match i with
  | .schInit => true
  | .schStart => decide (s.sch.phase = .stopped)
  | .usInit => true
  | .usSendB _ => true
  | .usRecvB _ => true
  | .usSendA _ => true
  | .usRecvA _ => true
  | .lcdWrite _ _ => true
  | .lcdClear => true
  | .evTick => s.st.running
  | .evSchStep => decide (s.sch.phase ≠ .stopped)
  | .evTxDone j => (usart? s j).any (fun u => u.txInflight.isSome)
  | .evRxByte j _ => (usart? s j).isSome
  | .evIrq j => irqPending s j
  | .evLcdRun => true
  | .evPoll j => (usart? s j).any (fun u => decide (u.rb.phase = .spinning))

/-! ## Sequences of operations -/

/-- The operations of a list, one after another, stopping at the first stop. -/
def execAll : List Instr → State → Res State
  | [], s => .next s
  | i :: rest, s => andThen (exec i s) (execAll rest)

/-- Whether each operation of a list is enabled where it comes, which makes a pseudo-operation legal (R109). -/
def legal : List Instr → State → Bool
  | [], _ => true
  | i :: rest, s =>
    enabled i s &&
      match exec i s with
      | .next t => legal rest t
      | .fault _ => rest.isEmpty
      | .refused _ => rest.isEmpty

/-- `n` times `txbyte u<i>` (R109). -/
def txRounds (i : Byte) (n : Nat) : List Instr := (List.replicate n (scriptTxByte i)).flatten

/-- `rxbyte u<i>, d 0` to `rxbyte u<i>, d (n - 1)` (R109). -/
def rxRounds (i : Byte) (d : Nat → Byte) (n : Nat) : List Instr := (List.range n).flatMap (fun k => scriptRxByte i (d k))

/-- Whether an event is a latch. -/
def Event.isLatch : Event → Bool
  | .latch _ _ _ => true
  | .run _ => false
  | .txFrame _ _ => false
  | .txCb _ _ => false
  | .rxCb _ _ => false
  | .pin _ _ _ => false
  | .st _ => false
  | .ret _ => false

/-- The latch stream of a trace (R226). -/
def latches (tr : List Event) : List Event := tr.filter Event.isLatch

/-- The same machine with `ACCEPT_ATOMIC` at `b` (R171). -/
def withAtomic (b : Bool) (s : State) : State := { s with cfg := { s.cfg with acceptAtomic := b } }

/-- The USART an operation is about, if it is about one. -/
def usartOf : Instr → Option Byte
  | .usSendB i => some i
  | .usRecvB i => some i
  | .usSendA i => some i
  | .usRecvA i => some i
  | .evTxDone i => some i
  | .evRxByte i _ => some i
  | .evIrq i => some i
  | .evPoll i => some i
  | .schInit => none
  | .schStart => none
  | .usInit => none
  | .lcdWrite _ _ => none
  | .lcdClear => none
  | .evTick => none
  | .evSchStep => none
  | .evLcdRun => none

/-! ## Runs and fairness (R330) -/

/-- An infinite run: states and the inputs between them. -/
def IsRun (st : Nat → State) (inp : Nat → Input) : Prop :=
  ∀ n, applyInput (inp n) (st n) = .next (st (n + 1))

/-- `i` is taken at some point from `n` on. -/
def TakenFrom (inp : Nat → Input) (i : Instr) (n : Nat) : Prop := ∃ m, n ≤ m ∧ inp m = wordInput i

/-- F1: while the timer runs, ticks occur infinitely often. -/
def FairTick (st : Nat → State) (inp : Nat → Input) : Prop :=
  ∀ n, (st n).st.running = true → TakenFrom inp .evTick n

/-- F2: MAIN steps infinitely often once started. -/
def FairMain (st : Nat → State) (inp : Nat → Input) : Prop :=
  ∀ n, (st n).sch.phase ≠ .stopped → TakenFrom inp .evSchStep n

/-- F3: a frame in flight is eventually ended. -/
def FairLine (st : Nat → State) (inp : Nat → Input) : Prop :=
  ∀ n i u, usart? (st n) i = some u → u.txInflight ≠ none → TakenFrom inp (.evTxDone i) n

/-- F4: an enabled interrupt is eventually taken. -/
def FairIrq (st : Nat → State) (inp : Nat → Input) : Prop :=
  ∀ n i, irqPending (st n) i = true → TakenFrom inp (.evIrq i) n

/-- F5: a spinning blocking receive is eventually polled. -/
def FairPoll (st : Nat → State) (inp : Nat → Input) : Prop :=
  ∀ n i u, usart? (st n) i = some u → u.rb.phase = .spinning → TakenFrom inp (.evPoll i) n

/-- The fairness premises of R330, which a claim about progress takes as hypotheses. -/
def Fair (st : Nat → State) (inp : Nat → Input) : Prop :=
  FairTick st inp ∧ FairMain st inp ∧ FairLine st inp ∧ FairIrq st inp ∧ FairPoll st inp

end Sys2Proof.Machine
end

