-- ==== Sys2Proof/Certificates/Slice0/Obligations.lean ====
section
/-! DEFINITION. The statements about the model, each from the rules its docstring cites. A result code or a bit mask is
written as the spec's number, so that no statement leans on the model's own encoding of it. -/

open Sys2Proof Sys2Proof.Machine

/-! ## Encoding -/

/-- R101, R102, R103, R110: an operation's word, with every operand at every value, decodes to it. -/
def Obligations.EncodeThenDecodeReturnsInstr : Prop :=
  ∀ i : Instr, decode (encode i) = .ok i

/-- R103, R110: on every word the decoder finds the row that the table's match and mask select; no word matches two
rows; and a word has one meaning, the operation it denotes having no other word. -/
def Obligations.DecodeIsTheOpcodeTable : Prop :=
  (∀ w : Word, mnemonicInTable w = (decode w).toOption.map Instr.mnemonic ∧ ∀ i, decode w = .ok i → encode i = w) ∧
  ∀ w : Word, ∀ r ∈ opcodeRows, ∀ q ∈ opcodeRows,
    w &&& r.mask = r.pattern → w &&& q.mask = q.pattern → r = q

/-- 95_test_vectors.md section 2.1: every word listed there, the twelve legal ones, the nine that match no row, and the
event word that names no agent when `N_USART` is 3. -/
def Obligations.ListedWordsDecodeAsListed : Prop :=
  decode 0x10000000 = .ok .schInit ∧ decode 0x11000000 = .ok .schStart ∧ decode 0x20000000 = .ok .usInit ∧
  decode 0x21020000 = .ok (.usSendB 2) ∧ decode 0x21030000 = .ok (.usSendB 3) ∧ decode 0x23010000 = .ok (.usSendA 1) ∧
  decode 0x24FF0000 = .ok (.usRecvA 255) ∧ decode 0x30000205 = .ok (.lcdWrite 2 5) ∧
  decode 0x30000410 = .ok (.lcdWrite 4 16) ∧ decode 0x31000000 = .ok .lcdClear ∧
  decode 0xE3010041 = .ok (.evRxByte 1 0x41) ∧ decode 0xE4020000 = .ok (.evIrq 2) ∧
  decode 0xE2030000 = .ok (.evTxDone 3) ∧ Instr.wf 3 (.evTxDone 3) = false ∧
  ∀ w ∈ [0x00000000, 0x12000000, 0x10000001, 0x21000100, 0x31000100, 0x30010000, 0xE7000000, 0xE0010000, 0xE3000141],
    (decode w).toOption = none

/-- R106, R110: a word that matches no row, and an event word whose `inst` is at or above `N_USART`, is refused. -/
def Obligations.IllegalWordIsRefused : Prop :=
  ∀ (s : State) (w : Word) (rest : List Input), configOk s.cfg = true → s.env = .word w :: rest →
    ((∀ r ∈ opcodeRows, w &&& r.mask ≠ r.pattern) ∨
      ∃ j d : Byte, s.cfg.nUsart ≤ j.toNat ∧
        decode w ∈ [.ok (.evTxDone j), .ok (.evRxByte j d), .ok (.evIrq j), .ok (.evPoll j)]) →
    step s = .refused (.illegalWord w)

/-- R100, R110 and log 1: a word at the head of the inputs that decodes to an operation of this machine is taken from
them, and the step is that operation. -/
def Obligations.StepRunsDecodedWord : Prop :=
  ∀ (s : State) (w : Word) (rest : List Input) (i : Instr), configOk s.cfg = true → s.env = .word w :: rest →
    decode w = .ok i → i.wf s.cfg.nUsart = true → step s = exec i { s with env := rest }

/-- Log 1 and 7 (the model's own inputs): nothing presented leaves the state as it is; the HOST's write of an operand
register changes that register alone, and its write of an admitted BUF byte changes that byte alone. -/
def Obligations.StepTakesHostWrites : Prop :=
  (∀ s : State, configOk s.cfg = true → s.env = [] → step s = .next s) ∧
  (∀ (s : State) (r : OpReg) (v : Word) (rest : List Input), configOk s.cfg = true → s.env = .operand r v :: rest →
    step s = .next { s with
      env := rest
      port := { a0 := if r = .a0 then v else s.port.a0, a1 := if r = .a1 then v else s.port.a1,
                a2 := if r = .a2 then v else s.port.a2, r0 := s.port.r0 } }) ∧
  (∀ (s : State) (a : Word) (b : Byte) (rest : List Input), configOk s.cfg = true → s.env = .bufWrite a b :: rest →
    admits s.cfg a = true →
    ∃ t, step s = .next t ∧ { t with buf := s.buf, env := s.env } = s ∧ t.env = rest ∧
      bufByte t.buf a.toNat = b ∧ SameBufBut a s t)

/-- R277, R26, U21: a configuration with a row of period 0, or with SCHTICK, CB_LCD and 0 not pairwise distinct, has no
step. -/
def Obligations.BadConfigurationIsRefused : Prop :=
  ∀ s : State,
    (∃ r ∈ s.cfg.run, r.periodMs = 0) ∨ s.cfg.schTick = 0 ∨ s.cfg.cbLcd = 0 ∨ s.cfg.schTick = s.cfg.cbLcd →
    step s = .refused .badConfig

/-! ## Reset -/

/-- R67, R310: the reset value of every piece of state for which the spec gives one, whatever the unspecified values,
the launch memory and the configuration are. -/
def Obligations.ResetLeavesTheListedValues : Prop :=
  ∀ (c : Config) (p : Port) (g : Nat → Byte) (m : Memory),
    let s := State.resetWith c p g m
    s.sch = { pending := 0, elapsedMs := 0, phase := .stopped, idx := 0 } ∧
    s.st = { periodMs := 0, running := false, cb0 := 0, cb1 := 0, cb2 := 0 } ∧
    s.us.length = c.nUsart ∧
    (∀ u ∈ s.us, u.cr = 0 ∧ u.tc = true ∧ u.rxne = false ∧ u.txInflight = none ∧ u.brr = 0 ∧ u.stop = 0 ∧
      u.tx = { buf := 0, pos := 0, size := 0, cb := 0, state := .idle } ∧
      u.rx = { buf := 0, pos := 0, size := 0, cb := 0, state := .idle } ∧
      u.rb = { phase := .none, spin := 0, buf := 0 }) ∧
    s.lcd.top = .init ∧ s.lcd.init = .powerOn ∧ s.lcd.pwrCnt = 0 ∧ s.lcd.wr = .start ∧ s.lcd.clr = .start ∧
    s.lcd.strobe = .low ∧ s.lcd.hiNibble = true ∧
    s.lcd.req = { ptr := 0, len := 0, row := 0, col := 0, pos := 0, state := .idle, type := .none } ∧
    s.lcd.rs = false ∧ s.lcd.e = false ∧ s.lcd.d = 0 ∧ s.trace = []

/-- The invariant of the machine holds right after reset. -/
def Obligations.ResetMeetsInvariant : Prop :=
  ∀ (c : Config) (p : Port) (g : Nat → Byte) (m : Memory), configOk c = true → Memory.wf m = true →
    Inv (State.resetWith c p g m)

/-- R279, R311: from reset no tick, no scheduler step, no interrupt, no end of a frame and no poll is enabled, and a
received byte is lost. -/
def Obligations.NothingIsArmedAfterReset : Prop :=
  ∀ (c : Config) (p : Port) (g : Nat → Byte) (m : Memory) (i d : Byte), i.toNat < c.nUsart →
    let s := State.resetWith c p g m
    exec .evTick s = .refused (.notEnabled "EV.TICK") ∧ exec .evSchStep s = .refused (.notEnabled "EV.SCHSTEP") ∧
    exec (.evIrq i) s = .refused (.notEnabled "EV.IRQ") ∧ exec (.evTxDone i) s = .refused (.notEnabled "EV.TXDONE") ∧
    exec (.evPoll i) s = .refused (.notEnabled "EV.POLL") ∧ exec (.evRxByte i d) s = .next s

/-! ## Scheduler -/

/-- R131: SCH.INIT sets the period and the callback of slot `SCH_SLOT`, returns Ok, and does nothing else. -/
def Obligations.SchInitRegistersTheTick : Prop :=
  ∀ s : State,
    exec .schInit s = .next { s with
      st := { s.st with
        periodMs := s.cfg.tickMs
        cb0 := if s.cfg.schSlot = 0 then s.cfg.schTick else s.st.cb0
        cb1 := if s.cfg.schSlot = 1 then s.cfg.schTick else s.st.cb1
        cb2 := if s.cfg.schSlot = 2 then s.cfg.schTick else s.st.cb2 }
      port := { s.port with r0 := 0 }
      trace := s.trace ++ [.st (.setPeriodMilliseconds s.cfg.tickMs),
        .st (.registerCallback s.cfg.schTick s.cfg.schSlot), .ret 0] }

/-- R133: SCH.START arms the timer and enters Poll, with R0 unwritten and no RET; it is refused unless Stopped. -/
def Obligations.SchStartArmsTheTimer : Prop :=
  ∀ s : State,
    (s.sch.phase = .stopped → exec .schStart s = .next { s with
      st := { s.st with running := true }, sch := { s.sch with phase := .poll, idx := 0 },
      trace := s.trace ++ [.st (.start s.cfg.stClkSrc)] }) ∧
    (s.sch.phase ≠ .stopped → exec .schStart s = .refused .startTwice)

/-- R286: what invoking an identifier does, in each of its four cases. -/
def Obligations.InvokeHasFourCases : Prop :=
  ∀ (s : State) (cb : Word), s.cfg.schTick ≠ 0 → s.cfg.cbLcd ≠ 0 → s.cfg.schTick ≠ s.cfg.cbLcd →
    invoke 0 s = .next s ∧
    invoke s.cfg.schTick s = .next { s with sch := { s.sch with pending := s.sch.pending + 1 } } ∧
    invoke s.cfg.cbLcd s = exec .evLcdRun s ∧
    (cb ≠ 0 → cb ≠ s.cfg.schTick → cb ≠ s.cfg.cbLcd → invoke cb s = .next s)

/-- R135, R136: EV.TICK is enabled exactly while the timer runs, and invokes the three callbacks in slot order; with
no slot holding CB_LCD it adds to the pending counter, modulo 2^32, the number of slots that hold SCHTICK, and changes
nothing else. That a word that is not enabled is refused is log 10. -/
def Obligations.TickInvokesCallbacksInSlotOrder : Prop :=
  ∀ s : State,
    (s.st.running = false → exec .evTick s = .refused (.notEnabled "EV.TICK")) ∧
    (s.st.running = true → ∀ s1 s2 s3, invoke s.st.cb0 s = .next s1 → invoke s.st.cb1 s1 = .next s2 →
      invoke s.st.cb2 s2 = .next s3 → exec .evTick s = .next s3) ∧
    (s.st.running = true → s.cfg.schTick ≠ 0 → s.st.cb0 ≠ s.cfg.cbLcd → s.st.cb1 ≠ s.cfg.cbLcd →
      s.st.cb2 ≠ s.cfg.cbLcd →
      exec .evTick s = .next { s with sch := { s.sch with
        pending := s.sch.pending + (if s.st.cb0 = s.cfg.schTick then 1 else 0) +
          (if s.st.cb1 = s.cfg.schTick then 1 else 0) + (if s.st.cb2 = s.cfg.schTick then 1 else 0) } })

/-- R137, R139: EV.SCHSTEP is not enabled in Stopped; in Poll it begins a pass for a pending tick, or idles; after the
last row of a pass the accumulator advances by the tick granularity, modulo 2^32, and the loop polls. That a word that is
not enabled is refused is log 10. -/
def Obligations.SchStepBeginsAndEndsPasses : Prop :=
  ∀ s : State,
    (s.sch.phase = .stopped → exec .evSchStep s = .refused (.notEnabled "EV.SCHSTEP")) ∧
    (s.sch.phase = .poll → s.sch.pending ≠ 0 → exec .evSchStep s = .next { s with
      sch := { s.sch with pending := s.sch.pending - 1, idx := 0, phase := .pass } }) ∧
    (s.sch.phase = .poll → s.sch.pending = 0 → exec .evSchStep s = .next s) ∧
    (s.sch.phase = .pass → s.sch.idx = s.cfg.nRun → exec .evSchStep s = .next { s with
      sch := { s.sch with elapsedMs := s.sch.elapsedMs + s.cfg.tickMs, phase := .poll } })

/-- R138: a row is dispatched exactly when the accumulator is a multiple of its period; RUN(k) comes before the
callback, and the next row's index after it. -/
def Obligations.SchStepExaminesOneRow : Prop :=
  ∀ (s : State) (r : Runnable), s.sch.phase = .pass → s.cfg.run[s.sch.idx]? = some r → 0 < r.periodMs →
    (s.sch.elapsedMs.toNat % r.periodMs ≠ 0 →
      exec .evSchStep s = .next { s with sch := { s.sch with idx := s.sch.idx + 1 } }) ∧
    (s.sch.elapsedMs.toNat % r.periodMs = 0 → ∀ t,
      invoke r.cb { s with trace := s.trace ++ [.run s.sch.idx] } = .next t →
      exec .evSchStep s = .next { t with sch := { t.sch with idx := s.sch.idx + 1 } })

/-- R138, R139, R141: a whole pass over rows with opaque callbacks dispatches exactly the due rows, in table order, all
against the accumulator's value at its start, and then advances it once. That such a callback changes nothing in its
step is R286 and D9 (log 19). -/
def Obligations.OnePassDispatchesTheDueRowsInOrder : Prop :=
  ∀ s : State, s.sch.phase = .pass → s.sch.idx = 0 →
    (∀ r ∈ s.cfg.run, 0 < r.periodMs ∧ r.cb ≠ s.cfg.schTick ∧ r.cb ≠ s.cfg.cbLcd) →
    execAll (List.replicate (s.cfg.nRun + 1) .evSchStep) s = .next { s with
      sch := { s.sch with idx := s.cfg.nRun, phase := .poll, elapsedMs := s.sch.elapsedMs + s.cfg.tickMs }
      trace := s.trace ++
        ((List.range s.cfg.nRun).filter (fun k => (s.cfg.run[k]?).any (fun r =>
          s.sch.elapsedMs.toNat % r.periodMs == 0))).map Event.run }

/-- R142: before the first wrap, a row of period P is due in pass n exactly when n is a multiple of lcm(P, T) / T. -/
def Obligations.RowIsDueEveryLcmOverTickPasses : Prop :=
  ∀ n p t : Nat, 0 < p → 0 < t → n * t < 2 ^ 32 →
    (rowDue (BitVec.ofNat 32 (n * t)) p = true ↔ (Nat.lcm p t / t) ∣ n)

/-- R23: outside ticks and handlers, and with no row's callback being SCHTICK (log 32), the pending counter is only ever
decremented, by the Poll step. -/
def Obligations.OnlyPollDecrementsPending : Prop :=
  ∀ (i : Instr) (s t : State), (∀ r ∈ s.cfg.run, r.cb ≠ s.cfg.schTick) → i ≠ .evTick → (∀ j, i ≠ .evIrq j) →
    exec i s = .next t →
    t.sch.pending = s.sch.pending ∨
      (i = .evSchStep ∧ s.sch.phase = .poll ∧ s.sch.pending ≠ 0 ∧ t.sch.pending = s.sch.pending - 1)

/-- R24: the accumulator is written only at the end of a pass, by the tick granularity. -/
def Obligations.ElapsedAdvancesOnlyAtPassEnd : Prop :=
  ∀ (i : Instr) (s t : State), exec i s = .next t →
    t.sch.elapsedMs = s.sch.elapsedMs ∨
      (i = .evSchStep ∧ s.sch.phase = .pass ∧ s.sch.idx = s.cfg.nRun ∧
        t.sch.elapsedMs = s.sch.elapsedMs + s.cfg.tickMs)

/-! ## USART: divisor and initialization -/

/-- R165: the divisor in one rounding. With `scaled` the divider times 1000, the result is `scaled * over / 1000`
rounded half up, in units of 1 / over: its quotient by `over` is the mantissa, carry included, its remainder the
fraction, and it is ok exactly for a baud rate other than 0, an oversampling of 8 or 16 and a mantissa of 1 to
0xFFF. -/
def Obligations.DivisorIsOneRoundingWithCarry : Prop :=
  ∀ pclk baud os : Nat,
    let q := (pclk * 1000 / (os * baud) * os + 500) / 1000
    brr pclk baud os =
      if baud = 0 ∨ (os ≠ 8 ∧ os ≠ 16) ∨ q / os = 0 ∨ 0xFFF < q / os then none
      else some (BitVec.ofNat 16 (q / os * 16 + q % os))

/-- 95_test_vectors.md section 2.3 (R165): the listed divisors. -/
def Obligations.ListedDivisorsComeOut : Prop :=
  brr 16000000 9600 8 = some 0x0D03 ∧ brr 16000000 9600 16 = some 0x0683 ∧ brr 16000000 115200 16 = some 0x008B ∧
  brr 16000000 115200 8 = some 0x0113 ∧ brr 84000000 115200 16 = some 0x02D9 ∧ brr 42000000 9600 16 = some 0x1117 ∧
  brr 16000000 201000 16 = some 0x0050 ∧ brr 16000000 1010000 8 = some 0x0020 ∧
  brr 16000000 1030000 16 = some 0x0010 ∧ brr 16000000 1000000 16 = some 0x0010 ∧
  brr 16000000 2000000 8 = some 0x0010 ∧ brr 16000000 2000000 16 = none ∧ brr 16000000 1066667 16 = none ∧
  brr 16000000 245 16 = some 0xFF1A ∧ brr 16000000 244 16 = none ∧ brr 16000000 0 16 = none ∧
  brr 16000000 9600 12 = none

/-- R166: with a divisor that is not ok for some present USART, nothing is written but R0 = 2 (InvalidBaudRate);
otherwise each present USART gets its divisor, its format fields and its stop bits, an absent one nothing, and R0 is
Ok. Its other fields stand in `UsInitFrame`. -/
def Obligations.UsInitProgramsEveryPresentUsart : Prop :=
  ∀ s : State,
    ((∃ c ∈ s.cfg.ucfg, c.present = true ∧ brr c.pclkHz c.baud c.oversampling = none) →
      exec .usInit s = .next { s with port := { s.port with r0 := 2 }, trace := s.trace ++ [.ret 2] }) ∧
    ((∀ c ∈ s.cfg.ucfg, c.present = true → brr c.pclkHz c.baud c.oversampling ≠ none) →
      ∃ t, exec .usInit s = .next t ∧ t.port = { s.port with r0 := 0 } ∧ t.trace = s.trace ++ [.ret 0] ∧
        t.us.length = s.us.length ∧
        ∀ (k : Nat) (c : UCfg) (u : Usart), s.cfg.ucfg[k]? = some c → s.us[k]? = some u →
          (c.present = false → t.us[k]? = some u) ∧
          (c.present = true → ∃ v u', brr c.pclkHz c.baud c.oversampling = some v ∧ t.us[k]? = some u' ∧ u'.brr = v ∧
            crBit u'.cr 15 = decide (c.oversampling = 8) ∧ crBit u'.cr 12 = decide (c.wordlen = .nine) ∧
            crBit u'.cr 10 = decide (c.parity ≠ .none) ∧ crBit u'.cr 9 = decide (c.parity = .odd) ∧
            u'.stop = if c.stop = .two then 2 else 0))

/-- R166's "Not written" list: US.INIT leaves the other bits of CR, the flags, the slots and every other part of the
block as they are. -/
def Obligations.UsInitFrame : Prop :=
  ∀ s t : State, exec .usInit s = .next t →
    SameFrame s t ∧ SameOperands s t ∧ t.sch = s.sch ∧ t.st = s.st ∧ t.lcd = s.lcd ∧ t.accepts = s.accepts ∧
    t.draws = s.draws ∧ SameBuf s t ∧
    ∀ (k : Nat) (u v : Usart), s.us[k]? = some u → t.us[k]? = some v →
      SameCrBut [15, 12, 10, 9] u v ∧ v.tc = u.tc ∧ v.rxne = u.rxne ∧ v.txInflight = u.txInflight ∧
      v.drRx = u.drRx ∧ v.tx = u.tx ∧ v.rx = u.rx ∧ v.rb = u.rb

/-! ## USART: the transfer commands -/

/-- R170, R275: the checks of the four transfer commands, in their order, and that a command they end changes R0
alone. -/
def Obligations.TransferChecksInOrder : Prop :=
  ∀ (s : State) (i : Byte), s.us.length = s.cfg.nUsart →
    let ends := fun (c : Instr) (code : Word) =>
      exec c s = .next { s with port := { s.port with r0 := code }, trace := s.trace ++ [.ret code] }
    (s.port.a0 = 0 → ends (.usSendB i) 3 ∧ ends (.usRecvB i) 3) ∧
    (s.port.a0 = 0 ∨ s.port.a2 = 0 → ends (.usSendA i) 3 ∧ ends (.usRecvA i) 3) ∧
    (s.port.a0 ≠ 0 → s.cfg.nUsart ≤ i.toNat → ends (.usSendB i) 1 ∧ ends (.usRecvB i) 1) ∧
    (s.port.a0 ≠ 0 → s.port.a2 ≠ 0 → s.cfg.nUsart ≤ i.toNat → ends (.usSendA i) 1 ∧ ends (.usRecvA i) 1) ∧
    ∀ u, usart? s i = some u →
      (s.port.a0 ≠ 0 → u.tx.state = .busy → ends (.usSendB i) 4) ∧
      (s.port.a0 ≠ 0 → u.rx.state = .busy → ends (.usRecvB i) 4) ∧
      (s.port.a0 ≠ 0 → s.port.a2 ≠ 0 → u.tx.state = .busy → ends (.usSendA i) 4) ∧
      (s.port.a0 ≠ 0 → s.port.a2 ≠ 0 → u.rx.state = .busy → ends (.usRecvA i) 4)

/-- R173, R162: US.SENDB hands the byte at A0 to the transmitter, leaves TXEN set and the slot Idle, and returns Ok. -/
def Obligations.SendBHandsOverOneByte : Prop :=
  ∀ (s : State) (i : Byte) (u : Usart), s.cfg.acceptAtomic = true → usart? s i = some u → s.port.a0 ≠ 0 →
    u.tx.state = .idle → u.txInflight = none → admits s.cfg s.port.a0 = true →
    ∃ t, exec (.usSendB i) s = .next t ∧ t.port = { s.port with r0 := 0 } ∧
      t.trace = s.trace ++ [.txFrame i (bufByte s.buf s.port.a0.toNat), .ret 0] ∧
      usart? t i = some { u with
        cr := u.cr ||| 0x0008, txInflight := some (bufByte s.buf s.port.a0.toNat), tc := false }

/-- R162, R173, R182, R321: a transmit started while a frame is in flight is refused. -/
def Obligations.SendWithFrameInFlightIsRefused : Prop :=
  ∀ (s : State) (i : Byte) (u : Usart), s.cfg.acceptAtomic = true → usart? s i = some u → s.port.a0 ≠ 0 →
    u.tx.state = .idle → u.txInflight ≠ none → admits s.cfg s.port.a0 = true →
    exec (.usSendB i) s = .refused (.txOverrun i) ∧
    (s.port.a1 ≠ 0 → s.port.a2 ≠ 0 → exec (.usSendA i) s = .refused (.txOverrun i))

/-- R176: US.RECVB makes the slot Busy, enables the receiver and starts the spin; R0 is not written. -/
def Obligations.RecvBStartsTheSpin : Prop :=
  ∀ (s : State) (i : Byte) (u : Usart), s.cfg.acceptAtomic = true → usart? s i = some u → s.port.a0 ≠ 0 →
    u.rx.state = .idle →
    ∃ t, exec (.usRecvB i) s = .next t ∧ t.port = s.port ∧ t.trace = s.trace ∧
      usart? t i = some { u with
        cr := u.cr ||| 0x0004, rx := { u.rx with state := .busy },
        rb := { phase := .spinning, spin := 0, buf := s.port.a0 } }

/-- R177, R178, R179: EV.POLL is enabled exactly while spinning; it ends with TimeOut when the budget is spent, without
a test of the flag, with Ok when the flag is set, and otherwise counts. Either end stores DR_RX at `rb.buf`, clears RXNE,
applies the OR defect (or the fix) to CR, and frees the slot. That a word that is not enabled is refused is log 10. -/
def Obligations.PollEndsOrCounts : Prop :=
  ∀ (s : State) (i : Byte) (u : Usart), usart? s i = some u →
    let ends := fun (code : Word) => ∃ t, exec (.evPoll i) s = .next t ∧ t.port = { s.port with r0 := code } ∧
      t.trace = s.trace ++ [.ret code] ∧ bufByte t.buf u.rb.buf.toNat = u.drRx ∧ SameBufBut u.rb.buf s t ∧
      usart? t i = some { u with
        rxne := false, cr := if s.cfg.recvbFix = true then u.cr &&& 0xFFFB else u.cr ||| 0xFFFB,
        rx := { u.rx with state := .idle }, rb := { u.rb with phase := .none } }
    (u.rb.phase ≠ .spinning → exec (.evPoll i) s = .refused (.notEnabled "EV.POLL")) ∧
    (u.rb.phase = .spinning → u.rb.spin = s.cfg.rxBudget → admits s.cfg u.rb.buf = true → ends 5) ∧
    (u.rb.phase = .spinning → u.rb.spin ≠ s.cfg.rxBudget → u.rxne = true → admits s.cfg u.rb.buf = true → ends 0) ∧
    (u.rb.phase = .spinning → u.rb.spin ≠ s.cfg.rxBudget → u.rxne = false →
      ∃ t, exec (.evPoll i) s = .next t ∧ t.port = s.port ∧ t.trace = s.trace ∧ t.buf = s.buf ∧
        usart? t i = some { u with rb := { u.rb with spin := u.rb.spin + 1 } })

/-- R182, R183: US.SENDA fills the slot, pushes the first byte, arms the transfer-complete interrupt and returns Ok; a
size of 0 is refused. -/
def Obligations.SendAPushesTheFirstByte : Prop :=
  ∀ (s : State) (i : Byte) (u : Usart), s.cfg.acceptAtomic = true → usart? s i = some u → s.port.a0 ≠ 0 →
    s.port.a2 ≠ 0 → u.tx.state = .idle →
    (s.port.a1 = 0 → exec (.usSendA i) s = .refused .zeroSize) ∧
    (s.port.a1 ≠ 0 → u.txInflight = none → admits s.cfg s.port.a0 = true →
      ∃ t, exec (.usSendA i) s = .next t ∧ t.port = { s.port with r0 := 0 } ∧
        t.trace = s.trace ++ [.txFrame i (bufByte s.buf s.port.a0.toNat), .ret 0] ∧
        usart? t i = some { u with
          cr := u.cr ||| 0x0048, txInflight := some (bufByte s.buf s.port.a0.toNat), tc := false,
          tx := { buf := s.port.a0, pos := 1, size := s.port.a1, cb := s.port.a2, state := .busy } })

/-- R186: US.RECVA fills the slot from position 0, enables the receiver and its interrupt, reads nothing and returns
Ok, for every size. -/
def Obligations.RecvAArmsTheReceiver : Prop :=
  ∀ (s : State) (i : Byte) (u : Usart), s.cfg.acceptAtomic = true → usart? s i = some u → s.port.a0 ≠ 0 →
    s.port.a2 ≠ 0 → u.rx.state = .idle →
    ∃ t, exec (.usRecvA i) s = .next t ∧ t.port = { s.port with r0 := 0 } ∧ t.trace = s.trace ++ [.ret 0] ∧
      usart? t i = some { u with
        cr := u.cr ||| 0x0024,
        rx := { buf := s.port.a0, pos := 0, size := s.port.a1, cb := s.port.a2, state := .busy } }

/-- R171, R249: with `ACCEPT_ATOMIC = false` an accept operation past its checks leaves its step B pending and changes
nothing else; taken at once, with nothing between, step B gives what the atomic operation gives. The form of step B is
log 9; that an LCD request's Ok is returned by step B, and R0 unwritten by step A, is log 31. LCD.CLEAR needs no operand
register. -/
def Obligations.SplitAcceptJoinsToTheAtomicOne : Prop :=
  ∀ s t : State, s.cfg.acceptAtomic = false →
    let joins := fun (c : Instr) (a : Accept) =>
      exec c s = .next { s with accepts := s.accepts ++ [a] } ∧
      (exec c (withAtomic true s) = .next t →
        applyInput (.accept s.accepts.length) { s with accepts := s.accepts ++ [a] } = .next (withAtomic false t))
    (∀ (i : Byte) (u : Usart), usart? s i = some u → s.port.a0 ≠ 0 →
      (u.tx.state = .idle → joins (.usSendB i) (.sendB i s.port.a0)) ∧
      (u.rx.state = .idle → joins (.usRecvB i) (.recvB i s.port.a0)) ∧
      (u.tx.state = .idle → s.port.a2 ≠ 0 → joins (.usSendA i) (.sendA i s.port.a0 s.port.a1 s.port.a2)) ∧
      (u.rx.state = .idle → s.port.a2 ≠ 0 → joins (.usRecvA i) (.recvA i s.port.a0 s.port.a1 s.port.a2))) ∧
    (s.lcd.req.state = .idle → s.lcd.top = .operational →
      (∀ row col : Byte, s.port.a0 ≠ 0 → row.toNat < s.cfg.lcdRows → col.toNat < s.cfg.lcdCols →
        joins (.lcdWrite row col) (.lcdWrite row col s.port.a0 s.port.a1)) ∧
      joins .lcdClear .lcdClear)

/-- What a send command leaves alone, on every path (R173, R182). -/
def Obligations.SendFrame : Prop :=
  ∀ (s t : State) (i : Byte), exec (.usSendB i) s = .next t ∨ exec (.usSendA i) s = .next t →
    SameFrame s t ∧ SameOperands s t ∧ t.sch = s.sch ∧ t.st = s.st ∧ t.lcd = s.lcd ∧ t.draws = s.draws ∧
    SameBuf s t ∧ SameOtherUs i s t ∧ (s.cfg.acceptAtomic = true → t.accepts = s.accepts) ∧
    ∀ u v, usart? s i = some u → usart? t i = some v →
      SameCrBut [3, 6] u v ∧ SameFormat u v ∧ v.rxne = u.rxne ∧ v.drRx = u.drRx ∧ v.rx = u.rx ∧ v.rb = u.rb ∧
      (exec (.usSendB i) s = .next t → SameCrBut [3] u v ∧ v.tx = u.tx)

/-- What a receive command leaves alone, on every path (R176, R186). -/
def Obligations.ReceiveFrame : Prop :=
  ∀ (s t : State) (i : Byte), exec (.usRecvB i) s = .next t ∨ exec (.usRecvA i) s = .next t →
    SameFrame s t ∧ SameOperands s t ∧ t.sch = s.sch ∧ t.st = s.st ∧ t.lcd = s.lcd ∧ t.draws = s.draws ∧
    SameBuf s t ∧ SameOtherUs i s t ∧ (s.cfg.acceptAtomic = true → t.accepts = s.accepts) ∧
    ∀ u v, usart? s i = some u → usart? t i = some v →
      SameCrBut [2, 5] u v ∧ SameFormat u v ∧ v.tc = u.tc ∧ v.rxne = u.rxne ∧ v.txInflight = u.txInflight ∧
      v.drRx = u.drRx ∧ v.tx = u.tx ∧
      (exec (.usRecvB i) s = .next t → SameCrBut [2] u v ∧
        v.rx.buf = u.rx.buf ∧ v.rx.pos = u.rx.pos ∧ v.rx.size = u.rx.size ∧ v.rx.cb = u.rx.cb) ∧
      (exec (.usRecvA i) s = .next t → v.rb = u.rb)

/-! ## USART: line events and the handler -/

/-- R195: EV.TXDONE ends the frame in flight and sets TC, changing nothing else; it is not enabled without a frame. -/
def Obligations.TxDoneEndsTheFrame : Prop :=
  ∀ (s : State) (i : Byte) (u : Usart), usart? s i = some u →
    (u.txInflight = none → exec (.evTxDone i) s = .refused (.notEnabled "EV.TXDONE")) ∧
    (u.txInflight ≠ none → ∃ t, exec (.evTxDone i) s = .next t ∧ { t with us := s.us } = s ∧ SameOtherUs i s t ∧
      usart? t i = some { u with txInflight := none, tc := true })

/-- R196: EV.RXBYTE is lost without RXEN, is loaded over a read byte, and over an unread one leaves DR_RX with the new
byte or the old one and RXNE set. The frame, but for the model's own count of draws (log 8), is part of it. -/
def Obligations.RxByteIsLostLoadedOrDrawn : Prop :=
  ∀ (s : State) (i d : Byte) (u : Usart), usart? s i = some u →
    (crBit u.cr 2 = false → exec (.evRxByte i d) s = .next s) ∧
    (crBit u.cr 2 = true → ∃ (t : State) (b : Byte), exec (.evRxByte i d) s = .next t ∧
      { t with us := s.us, draws := s.draws } = s ∧ SameOtherUs i s t ∧
      usart? t i = some { u with drRx := b, rxne := true } ∧
      (u.rxne = false → b = d ∧ t.draws = s.draws) ∧ (u.rxne = true → b = d ∨ b = u.drRx))

/-- R37, R281: EV.IRQ is enabled exactly when the interrupt is routed and a cause has its flag and its enable set. -/
def Obligations.IrqNeedsARoutedCause : Prop :=
  ∀ (s : State) (i : Byte) (u : Usart) (c : UCfg), usart? s i = some u → s.cfg.ucfg[i.toNat]? = some c →
    (irqPending s i = true ↔ c.nvicEn = true ∧
      ((u.tc = true ∧ crBit u.cr 6 = true) ∨ (u.rxne = true ∧ crBit u.cr 5 = true))) ∧
    (irqPending s i = false → exec (.evIrq i) s = .refused (.notEnabled "EV.IRQ"))

/-- R190, R282: an enabled handler serves the Tx cause, then, on the state that leaves, the Rx cause. -/
def Obligations.IrqServesTxThenRx : Prop :=
  ∀ (s t : State) (i : Byte), irqPending s i = true →
    (exec (.evIrq i) s = .next t ↔ ∃ (m : State) (u v : Usart), usart? s i = some u ∧ usart? m i = some v ∧
      (if u.tc = true ∧ (s.cfg.irqGate = .flagOnly ∨ crBit u.cr 6 = true) then txBranch i s = .next m else m = s) ∧
      (if v.rxne = true ∧ (s.cfg.irqGate = .flagOnly ∨ crBit v.cr 5 = true) then rxBranch i m = .next t else t = m))

/-- R191: with the Tx cause pending and no Rx cause served, the handler pushes the byte at `tx.buf + tx.pos` while the
position is below the size, and otherwise disables the transmitter and its interrupt, frees the slot and invokes a
callback that is not null, once, after its event. -/
def Obligations.IrqTxPushesOrCompletes : Prop :=
  ∀ (s : State) (i : Byte) (u : Usart), usart? s i = some u → nvicEn s.cfg i = true → u.tc = true →
    crBit u.cr 6 = true → gated s.cfg.irqGate u.rxne (crBit u.cr 5) = false →
    (u.tx.pos < u.tx.size → crBit u.cr 3 = true → u.txInflight = none →
      admits s.cfg (u.tx.buf + u.tx.pos) = true →
      let b := bufByte s.buf (u.tx.buf + u.tx.pos).toNat
      ∃ t, exec (.evIrq i) s = .next t ∧ t.trace = s.trace ++ [.txFrame i b] ∧
        usart? t i = some { u with
          txInflight := some b, tc := false, tx := { u.tx with pos := u.tx.pos + 1 } }) ∧
    (¬ u.tx.pos < u.tx.size →
      let m := { s with us := s.us.set i.toNat { u with cr := u.cr &&& 0xFFB7, tx := { u.tx with state := .idle } } }
      (u.tx.cb = 0 → exec (.evIrq i) s = .next m) ∧
      (u.tx.cb ≠ 0 → ∀ t, invoke u.tx.cb { m with trace := m.trace ++ [.txCb i u.tx.cb] } = .next t →
        exec (.evIrq i) s = .next t))

/-- R192: with the Rx cause pending and no Tx cause served, the handler stores DR_RX at `rx.buf + rx.pos` while the
position is below the size, and completes when nothing is left to store, or, with RX_COMPLETE_EAGER, in the run that
stores the last byte. -/
def Obligations.IrqRxStoresOrCompletes : Prop :=
  ∀ (s : State) (i : Byte) (u : Usart), usart? s i = some u → nvicEn s.cfg i = true → u.rxne = true →
    crBit u.cr 5 = true → gated s.cfg.irqGate u.tc (crBit u.cr 6) = false →
    (u.rx.pos < u.rx.size → admits s.cfg (u.rx.buf + u.rx.pos) = true →
      ∃ m, store (u.rx.buf + u.rx.pos) u.drRx { s with
          us := s.us.set i.toNat { u with rxne := false, rx := { u.rx with pos := u.rx.pos + 1 } } } = .next m ∧
        bufByte m.buf (u.rx.buf + u.rx.pos).toNat = u.drRx ∧ SameBufBut (u.rx.buf + u.rx.pos) s m ∧
        (s.cfg.rxCompleteEager = false ∨ u.rx.pos + 1 ≠ u.rx.size → exec (.evIrq i) s = .next m) ∧
        (s.cfg.rxCompleteEager = true → u.rx.pos + 1 = u.rx.size →
          let n := { m with us := s.us.set i.toNat { u with
            rxne := false, cr := u.cr &&& 0xFFDB, rx := { u.rx with pos := u.rx.pos + 1, state := .idle } } }
          (u.rx.cb = 0 → exec (.evIrq i) s = .next n) ∧
          (u.rx.cb ≠ 0 → ∀ t, invoke u.rx.cb { n with trace := n.trace ++ [.rxCb i u.rx.cb] } = .next t →
            exec (.evIrq i) s = .next t))) ∧
    (¬ u.rx.pos < u.rx.size →
      let n := { s with us := s.us.set i.toNat { u with cr := u.cr &&& 0xFFDB, rx := { u.rx with state := .idle } } }
      (u.rx.cb = 0 → exec (.evIrq i) s = .next n) ∧
      (u.rx.cb ≠ 0 → ∀ t, invoke u.rx.cb { n with trace := n.trace ++ [.rxCb i u.rx.cb] } = .next t →
        exec (.evIrq i) s = .next t))

/-- What EV.IRQ leaves alone, on every path (R190 to R192): everything but its own USART, one byte of BUF where the Rx
branch stores, and the pending counter and the LCD where a branch completes with the callback that reaches them. -/
def Obligations.IrqFrame : Prop :=
  ∀ (s t : State) (i : Byte) (u v : Usart), exec (.evIrq i) s = .next t → usart? s i = some u → usart? t i = some v →
    SameFrame s t ∧ t.port = s.port ∧ t.st = s.st ∧ t.accepts = s.accepts ∧ t.draws = s.draws ∧
    SameOtherUs i s t ∧ SameBufBut (u.rx.buf + u.rx.pos) s t ∧
    (¬ RxStores s.cfg u → SameBuf s t) ∧
    t.sch.elapsedMs = s.sch.elapsedMs ∧ t.sch.phase = s.sch.phase ∧ t.sch.idx = s.sch.idx ∧
    ((TxCompletes s.cfg u → u.tx.cb ≠ s.cfg.schTick) → (RxCompletes s.cfg u → u.rx.cb ≠ s.cfg.schTick) →
      t.sch = s.sch) ∧
    ((TxCompletes s.cfg u → u.tx.cb ≠ s.cfg.cbLcd) → (RxCompletes s.cfg u → u.rx.cb ≠ s.cfg.cbLcd) → t.lcd = s.lcd) ∧
    SameCrBut [2, 3, 5, 6] u v ∧ SameFormat u v ∧ v.drRx = u.drRx ∧ v.rb = u.rb ∧
    v.tx.buf = u.tx.buf ∧ v.tx.size = u.tx.size ∧ v.tx.cb = u.tx.cb ∧
    v.rx.buf = u.rx.buf ∧ v.rx.size = u.rx.size ∧ v.rx.cb = u.rx.cb

/-- What EV.POLL leaves alone, on every path (R177 to R179). -/
def Obligations.PollFrame : Prop :=
  ∀ (s t : State) (i : Byte) (u v : Usart), exec (.evPoll i) s = .next t → usart? s i = some u → usart? t i = some v →
    SameFrame s t ∧ SameOperands s t ∧ t.sch = s.sch ∧ t.st = s.st ∧ t.lcd = s.lcd ∧ t.accepts = s.accepts ∧
    t.draws = s.draws ∧ SameOtherUs i s t ∧ SameBufBut u.rb.buf s t ∧
    v.tc = u.tc ∧ v.txInflight = u.txInflight ∧ v.drRx = u.drRx ∧ v.brr = u.brr ∧ v.stop = u.stop ∧ v.tx = u.tx ∧
    v.rx.buf = u.rx.buf ∧ v.rx.pos = u.rx.pos ∧ v.rx.size = u.rx.size ∧ v.rx.cb = u.rx.cb ∧ v.rb.buf = u.rb.buf ∧
    (u.rb.spin ≠ s.cfg.rxBudget → u.rxne = false →
      v.cr = u.cr ∧ v.rxne = u.rxne ∧ v.rx = u.rx ∧ t.port = s.port ∧ SameBuf s t)

/-- R199: an accepted US.SENDA of size N, with no other activity and its frames ended and its interrupts taken in turn,
emits exactly the N bytes of the buffer in order, invokes the callback once, in the N-th handler run, and is Busy
with `pos` counting up until then. The callback is opaque (R286, log 19). -/
def Obligations.AsyncSendTraversesTheBufferOnce : Prop :=
  ∀ (s : State) (i : Byte) (u : Usart), s.cfg.acceptAtomic = true → usart? s i = some u → nvicEn s.cfg i = true →
    u.tx.state = .idle → u.txInflight = none → u.rxne = false → s.port.a0 ≠ 0 → s.port.a1 ≠ 0 → s.port.a2 ≠ 0 →
    s.port.a2 ≠ s.cfg.schTick → s.port.a2 ≠ s.cfg.cbLcd →
    (∀ k : Nat, k < s.port.a1.toNat → admits s.cfg (s.port.a0 + BitVec.ofNat 32 k) = true) →
    let byte := fun k : Nat => bufByte s.buf (s.port.a0 + BitVec.ofNat 32 k).toNat
    let frames := fun n : Nat => (List.range n).map (fun k => Event.txFrame i (byte (k + 1)))
    (∀ k : Nat, k < s.port.a1.toNat → ∃ (t : State) (v : Usart),
      execAll (.usSendA i :: txRounds i k) s = .next t ∧ usart? t i = some v ∧
      t.trace = s.trace ++ [.txFrame i (byte 0), .ret 0] ++ frames k ∧
      v.tx = { buf := s.port.a0, pos := BitVec.ofNat 32 (k + 1), size := s.port.a1, cb := s.port.a2,
               state := .busy }) ∧
    ∃ (t : State) (v : Usart), execAll (.usSendA i :: txRounds i s.port.a1.toNat) s = .next t ∧ usart? t i = some v ∧
      t.trace = s.trace ++ [.txFrame i (byte 0), .ret 0] ++ frames (s.port.a1.toNat - 1) ++ [.txCb i s.port.a2] ∧
      v.tx = { buf := s.port.a0, pos := s.port.a1, size := s.port.a1, cb := s.port.a2, state := .idle } ∧
      crBit v.cr 3 = false ∧ crBit v.cr 6 = false ∧ v.txInflight = none

/-- R199: an accepted US.RECVA of size N, with no other activity and a byte received before each handler run, stores the
bytes in order, one per run, and is Busy with `pos` counting up; by default it completes in run N + 1, which reads
nothing and leaves its byte unread, with RX_COMPLETE_EAGER in run N; the callback is invoked once. The callback is opaque
(R286, log 19). -/
def Obligations.AsyncReceiveStoresTheBufferThenCompletes : Prop :=
  ∀ (s : State) (i : Byte) (u : Usart) (d : Nat → Byte), s.cfg.acceptAtomic = true → usart? s i = some u →
    nvicEn s.cfg i = true → u.rx.state = .idle → u.rxne = false →
    gated s.cfg.irqGate u.tc (crBit u.cr 6) = false → s.port.a0 ≠ 0 → s.port.a2 ≠ 0 →
    s.port.a2 ≠ s.cfg.schTick → s.port.a2 ≠ s.cfg.cbLcd →
    (∀ k : Nat, k < s.port.a1.toNat → admits s.cfg (s.port.a0 + BitVec.ofNat 32 k) = true) →
    let size := s.port.a1.toNat
    let slot := fun (k : Nat) (st : SlotState) =>
      ({ buf := s.port.a0, pos := BitVec.ofNat 32 k, size := s.port.a1, cb := s.port.a2, state := st } : Slot)
    let stored := fun (k : Nat) (t : State) => ∀ j : Nat, j < k →
      bufByte t.buf (s.port.a0 + BitVec.ofNat 32 j).toNat = d j
    let busyAfter := fun k : Nat => ∃ (t : State) (v : Usart),
      execAll (.usRecvA i :: rxRounds i d k) s = .next t ∧ usart? t i = some v ∧ t.trace = s.trace ++ [.ret 0] ∧
      v.rx = slot k .busy ∧ v.rxne = false ∧ stored k t
    let doneAfter := fun (k : Nat) (unread : Bool) => ∃ (t : State) (v : Usart),
      execAll (.usRecvA i :: rxRounds i d k) s = .next t ∧ usart? t i = some v ∧
      t.trace = s.trace ++ [.ret 0, .rxCb i s.port.a2] ∧ v.rx = slot size .idle ∧
      crBit v.cr 2 = false ∧ crBit v.cr 5 = false ∧ v.rxne = unread ∧ v.drRx = d (k - 1) ∧ stored size t
    (s.cfg.rxCompleteEager = false → (∀ k, k ≤ size → busyAfter k) ∧ doneAfter (size + 1) true) ∧
    (s.cfg.rxCompleteEager = true → 0 < size → (∀ k, k < size → busyAfter k) ∧ doneAfter size false)

/-- R160, R190: an operation on one USART neither reads nor changes another: whatever record `v` stands at another
index, the outcome is the same but for that record. -/
def Obligations.UsartsDoNotInterfere : Prop :=
  ∀ (c : Instr) (i j : Byte) (s t : State) (v : Usart), usartOf c = some i → j ≠ i → exec c s = .next t →
    exec c { s with us := s.us.set j.toNat v } = .next { t with us := t.us.set j.toNat v }

/-- R31, R32: BRR and STOP are written by US.INIT alone. -/
def Obligations.OnlyUsInitWritesBrrAndStop : Prop :=
  ∀ (c : Instr) (s t : State) (i : Byte) (u v : Usart), c ≠ .usInit → exec c s = .next t →
    usart? s i = some u → usart? t i = some v → v.brr = u.brr ∧ v.stop = u.stop

/-! ## LCD -/

/-- R225: the DDRAM command of each row with the spec's offsets and command bit, the source's worked example among
them. That a row from 4 on has none is log 12. -/
def Obligations.DdramCommandAddsTheRowOffset : Prop :=
  ∀ (c : Config) (col : Byte), c.rowOffset = [0x00, 0x40, 0x10, 0x50] → c.cmdSetDdram = 0x80 →
    ddramCmd c 0 col = some (0x80 ||| col) ∧ ddramCmd c 1 col = some (0x80 ||| (0x40 + col)) ∧
    ddramCmd c 2 col = some (0x80 ||| (0x10 + col)) ∧ ddramCmd c 3 col = some (0x80 ||| (0x50 + col)) ∧
    ddramCmd c 2 5 = some 0x95 ∧ ∀ row : Byte, 4 ≤ row.toNat → ddramCmd c row col = none

/-- R226: the two phases of SEND on an 8-bit bus: phase A drives RS and the byte and raises E, phase B lowers E,
latches what the pins hold, and is done. -/
def Obligations.SendOnEightBitBusTakesTwoPhases : Prop :=
  ∀ (s : State) (v : Byte) (rs : Bool) (f : Lcd → Lcd), s.cfg.lcdMode = .eight →
    (s.lcd.strobe = .low → sendThen v rs f s = { s with
      lcd := { s.lcd with rs := rs, d := v, e := true, strobe := .high }, trace := s.trace ++ [.pin rs true v] }) ∧
    (s.lcd.strobe = .high → sendThen v rs f s = { s with
      lcd := f { s.lcd with e := false, strobe := .low }
      trace := s.trace ++ [.latch s.lcd.rs s.lcd.d 8, .pin s.lcd.rs false s.lcd.d] })

/-- R226: the four phases of SEND on a 4-bit bus: the high nibble, then the low one, each on D7:D4 with a strobe cycle
of its own; only the fourth is done. -/
def Obligations.SendOnFourBitBusTakesFourPhases : Prop :=
  ∀ (s : State) (v : Byte) (rs : Bool) (f : Lcd → Lcd), s.cfg.lcdMode = .four →
    (s.lcd.strobe = .low → ∃ d : Byte,
      d.extractLsb' 4 4 = (if s.lcd.hiNibble = true then v.extractLsb' 4 4 else v.extractLsb' 0 4) ∧
      d.extractLsb' 0 4 = s.lcd.d.extractLsb' 0 4 ∧
      sendThen v rs f s = { s with
        lcd := { s.lcd with rs := rs, d := d, e := true, strobe := .high }, trace := s.trace ++ [.pin rs true d] }) ∧
    (s.lcd.strobe = .high →
      let tr := s.trace ++ [.latch s.lcd.rs (s.lcd.d >>> 4) 4, .pin s.lcd.rs false s.lcd.d]
      (s.lcd.hiNibble = true → sendThen v rs f s = { s with
        lcd := { s.lcd with e := false, strobe := .low, hiNibble := false }, trace := tr }) ∧
      (s.lcd.hiNibble = false → sendThen v rs f s = { s with
        lcd := f { s.lcd with e := false, strobe := .low, hiNibble := true }, trace := tr }))

/-- R230 to R236: one invocation in Init: the count of PowerOn and its threshold, the command each state sends and the
state that follows it, and the end of init, which changes no pin. -/
def Obligations.InitMachineFollowsItsStates : Prop :=
  ∀ s : State, s.lcd.top = .init →
    let sends := fun (v : Byte) (next : LcdInit) =>
      exec .evLcdRun s = .next (sendThen v false (fun l => { l with init := next }) s)
    (s.lcd.init = .powerOn → exec .evLcdRun s = .next { s with lcd := { s.lcd with
      pwrCnt := s.lcd.pwrCnt + 1
      init := if s.cfg.lcdPoweronTicks ≤ s.lcd.pwrCnt + 1 then .functionSet1 else .powerOn } }) ∧
    (s.lcd.init = .functionSet1 → s.cfg.lcdMode = .eight → sends s.cfg.cmdFs1 .displayControl) ∧
    (s.lcd.init = .functionSet1 → s.cfg.lcdMode = .four → sends s.cfg.cmdFs1 .functionSet2) ∧
    (s.lcd.init = .functionSet2 → sends s.cfg.cmdFs2 .displayControl) ∧
    (s.lcd.init = .displayControl → sends s.cfg.cmdDc .clearDisplay) ∧
    (s.lcd.init = .clearDisplay → sends s.cfg.cmdClr .endInit) ∧
    (s.lcd.init = .endInit → exec .evLcdRun s = .next { s with lcd := { s.lcd with top := .operational } })

/-- R230, R240 to R247, R252: one invocation of an outstanding request: each state of the write and clear machines, with
the byte it sends, the state that follows, and the slot's return to Idle; without a request, and in Off, nothing. -/
def Obligations.RequestMachinesFollowTheirStates : Prop :=
  (∀ s : State, s.lcd.top = .off ∨ (s.lcd.top = .operational ∧ s.lcd.req.state = .idle) →
    exec .evLcdRun s = .next s) ∧
  ∀ s : State, s.lcd.top = .operational → s.lcd.req.state = .busy →
    (s.lcd.req.type = .write →
      (s.lcd.wr = .start → exec .evLcdRun s = .next { s with
        lcd := { s.lcd with e := false, strobe := .low, wr := .setPosition }
        trace := s.trace ++ [.pin s.lcd.rs false s.lcd.d] }) ∧
      (s.lcd.wr = .setPosition → ∀ v, ddramCmd s.cfg s.lcd.req.row s.lcd.req.col = some v →
        exec .evLcdRun s = .next (sendThen v false (fun l => { l with wr := .character }) s)) ∧
      (s.lcd.wr = .character → s.lcd.req.pos < s.lcd.req.len →
        admits s.cfg (s.lcd.req.ptr + s.lcd.req.pos) = true →
        exec .evLcdRun s = .next (sendThen (bufByte s.buf (s.lcd.req.ptr + s.lcd.req.pos).toNat) true
          (fun l => { l with req := { l.req with pos := l.req.pos + 1 } }) s)) ∧
      (s.lcd.wr = .character → ¬ s.lcd.req.pos < s.lcd.req.len →
        exec .evLcdRun s = .next { s with lcd := { s.lcd with wr := .done } }) ∧
      (s.lcd.wr = .done → exec .evLcdRun s = .next { s with
        lcd := { s.lcd with req := { s.lcd.req with state := .idle, type := .none }, wr := .start } })) ∧
    (s.lcd.req.type = .clear →
      (s.lcd.clr = .start → exec .evLcdRun s = .next { s with lcd := { s.lcd with clr := .inProgress } }) ∧
      (s.lcd.clr = .inProgress →
        exec .evLcdRun s = .next (sendThen s.cfg.cmdClr false (fun l => { l with clr := .done }) s)) ∧
      (s.lcd.clr = .done → exec .evLcdRun s = .next { s with
        lcd := { s.lcd with req := { s.lcd.req with state := .idle, type := .none }, clr := .start } }))

/-- R237: on an 8-bit bus, with P the PowerOn threshold, the LCD becomes Operational in invocation P + 7 from reset and
not before, after exactly three latches, those of FunctionSet1, DisplayControl and ClearDisplay; on a 4-bit bus in
invocation P + 17, after eight latches of a nibble each (zero-extended, log 18). -/
def Obligations.InitTakesItsCountOfInvocations : Prop :=
  ∀ s : State, s.lcd = Lcd.reset → s.cfg.lcdPoweronTicks ≠ 0 →
    let p := s.cfg.lcdPoweronTicks.toNat
    let run := fun k : Nat => execAll (List.replicate k .evLcdRun) s
    let nibbles := fun v : Byte => [Event.latch false (v >>> 4) 4, Event.latch false (v &&& 0x0F) 4]
    (s.cfg.lcdMode = .eight →
      (∀ k, k < p + 7 → ∃ t, run k = .next t ∧ t.lcd.top = .init) ∧
      ∃ t, run (p + 7) = .next t ∧ t.lcd.top = .operational ∧ latches t.trace = latches s.trace ++
        [.latch false s.cfg.cmdFs1 8, .latch false s.cfg.cmdDc 8, .latch false s.cfg.cmdClr 8]) ∧
    (s.cfg.lcdMode = .four →
      (∀ k, k < p + 17 → ∃ t, run k = .next t ∧ t.lcd.top = .init) ∧
      ∃ t, run (p + 17) = .next t ∧ t.lcd.top = .operational ∧ latches t.trace = latches s.trace ++
        nibbles s.cfg.cmdFs1 ++ nibbles s.cfg.cmdFs2 ++ nibbles s.cfg.cmdDc ++ nibbles s.cfg.cmdClr)

/-- R251: how many invocations a request takes, with the latches it makes: a write of L characters 2L + 5 on an 8-bit
bus and 4L + 7 on a 4-bit one, the position command and then the L characters in order; a clear 4 and 6, its command.
The slot is Busy until the last of them. A latched nibble is shown zero-extended (log 18). -/
def Obligations.RequestsTakeTheirCountOfInvocations : Prop :=
  ∀ s : State, s.lcd.top = .operational → s.lcd.req.state = .busy →
    let run := fun k : Nat => execAll (List.replicate k .evLcdRun) s
    let takes := fun (n : Nat) (made : List Event) =>
      (∀ k, k < n → ∃ t, run k = .next t ∧ t.lcd.req.state = .busy) ∧
      ∃ t, run n = .next t ∧ t.lcd.req.state = .idle ∧ t.lcd.req.type = .none ∧
        latches t.trace = latches s.trace ++ made
    let nibbles := fun (rs : Bool) (v : Byte) => [Event.latch rs (v >>> 4) 4, Event.latch rs (v &&& 0x0F) 4]
    let size := s.lcd.req.len.toNat
    let byte := fun k : Nat => bufByte s.buf (s.lcd.req.ptr + BitVec.ofNat 32 k).toNat
    (s.lcd.req.type = .write → s.lcd.wr = .start → s.lcd.req.pos = 0 →
      ∀ v : Byte, ddramCmd s.cfg s.lcd.req.row s.lcd.req.col = some v →
      (∀ k : Nat, k < size → admits s.cfg (s.lcd.req.ptr + BitVec.ofNat 32 k) = true) →
      (s.cfg.lcdMode = .eight →
        takes (2 * size + 5) ([.latch false v 8] ++ (List.range size).map (fun k => .latch true (byte k) 8))) ∧
      (s.cfg.lcdMode = .four → s.lcd.hiNibble = true →
        takes (4 * size + 7) (nibbles false v ++ (List.range size).flatMap (fun k => nibbles true (byte k))))) ∧
    (s.lcd.req.type = .clear → s.lcd.clr = .start → s.lcd.strobe = .low →
      (s.cfg.lcdMode = .eight → takes 4 [.latch false s.cfg.cmdClr 8]) ∧
      (s.cfg.lcdMode = .four → s.lcd.hiNibble = true → takes 6 (nibbles false s.cfg.cmdClr)))

/-- R246, R250, R272, R275: LCD.WRITE checks the pointer, then the range, whatever the LCD does; it takes the slot only
when Idle and Operational, and otherwise is dropped with Ok. Nothing else changes. -/
def Obligations.LcdWriteTakesTheSlotOrIsDropped : Prop :=
  ∀ (s : State) (row col : Byte), s.cfg.acceptAtomic = true →
    let returns := fun (code : Word) (l : Lcd) => exec (.lcdWrite row col) s = .next { s with
      lcd := l, port := { s.port with r0 := code }, trace := s.trace ++ [.ret code] }
    let inRange := row.toNat < s.cfg.lcdRows ∧ col.toNat < s.cfg.lcdCols
    (s.port.a0 = 0 → returns 1 s.lcd) ∧
    (s.port.a0 ≠ 0 → ¬ inRange → returns 2 s.lcd) ∧
    (s.port.a0 ≠ 0 → inRange → s.lcd.req.state = .idle → s.lcd.top = .operational →
      returns 0 { s.lcd with req := { ptr := s.port.a0, len := s.port.a1, row := row, col := col, pos := 0,
                                      state := .busy, type := .write } }) ∧
    (s.port.a0 ≠ 0 → inRange → s.lcd.req.state = .busy ∨ s.lcd.top ≠ .operational → returns 0 s.lcd)

/-- R248, R250: LCD.CLEAR takes the slot only when Idle and Operational, touching its type and state alone, and
otherwise is dropped with Ok. -/
def Obligations.LcdClearTakesTheSlotOrIsDropped : Prop :=
  ∀ s : State, s.cfg.acceptAtomic = true →
    let returns := fun (l : Lcd) => exec .lcdClear s = .next { s with
      lcd := l, port := { s.port with r0 := 0 }, trace := s.trace ++ [.ret 0] }
    (s.lcd.req.state = .idle → s.lcd.top = .operational →
      returns { s.lcd with req := { s.lcd.req with type := .clear, state := .busy } }) ∧
    (s.lcd.req.state = .busy ∨ s.lcd.top ≠ .operational → returns s.lcd)

/-- What EV.TICK, EV.SCHSTEP and EV.LCDRUN leave alone, on every path (R135 to R139, R230, R286): the port, SysTick,
the USARTs, BUF; the LCD where no LCD runnable is reached; a request's pointer, length, row and column always. -/
def Obligations.MainAndTickFrame : Prop :=
  ∀ (c : Instr) (s t : State), c = .evTick ∨ c = .evSchStep ∨ c = .evLcdRun → exec c s = .next t →
    SameFrame s t ∧ t.port = s.port ∧ t.st = s.st ∧ t.us = s.us ∧ SameBuf s t ∧ t.accepts = s.accepts ∧
    t.draws = s.draws ∧ t.lcd.req.ptr = s.lcd.req.ptr ∧ t.lcd.req.len = s.lcd.req.len ∧
    t.lcd.req.row = s.lcd.req.row ∧ t.lcd.req.col = s.lcd.req.col ∧
    (c = .evLcdRun → t.sch = s.sch) ∧
    (c = .evTick → t.sch.elapsedMs = s.sch.elapsedMs ∧ t.sch.phase = s.sch.phase ∧ t.sch.idx = s.sch.idx) ∧
    (c = .evTick → s.st.cb0 ≠ s.cfg.cbLcd → s.st.cb1 ≠ s.cfg.cbLcd → s.st.cb2 ≠ s.cfg.cbLcd → t.lcd = s.lcd) ∧
    (c = .evSchStep → (∀ r ∈ s.cfg.run, r.cb ≠ s.cfg.cbLcd) → t.lcd = s.lcd)

/-! ## The whole machine -/

/-- R21, R66, R7: no operation writes an operand register, changes the configuration, or takes anything back from the
output trace; and R0 changes exactly by a return, which the trace shows. -/
def Obligations.OperandsAndConfigurationAreNeverWritten : Prop :=
  ∀ (c : Instr) (s t : State), exec c s = .next t →
    SameOperands s t ∧ t.cfg = s.cfg ∧ ∃ tr, t.trace = s.trace ++ tr ∧
      (∀ code, .ret code ∈ tr → t.port.r0 = code) ∧ ((∀ code, .ret code ∉ tr) → t.port.r0 = s.port.r0)

/-- R70, R71, R277: a step that reaches BUF at an address the launch memory does not admit is stuck, and address 0 is
never admitted. -/
def Obligations.UnadmittedAccessIsStuck : Prop :=
  (∀ c : Config, admits c 0 = false) ∧
  ∀ (s : State) (i : Byte) (u : Usart), usart? s i = some u → s.cfg.acceptAtomic = true →
    (s.port.a0 ≠ 0 → u.tx.state = .idle → admits s.cfg s.port.a0 = false →
      exec (.usSendB i) s = .fault (.bufNotAdmitted s.port.a0) ∧
      (s.port.a1 ≠ 0 → s.port.a2 ≠ 0 → exec (.usSendA i) s = .fault (.bufNotAdmitted s.port.a0))) ∧
    (u.rb.phase = .spinning → u.rb.spin = s.cfg.rxBudget ∨ u.rxne = true → admits s.cfg u.rb.buf = false →
      exec (.evPoll i) s = .fault (.bufNotAdmitted u.rb.buf)) ∧
    (s.lcd.top = .operational → s.lcd.req.state = .busy → s.lcd.req.type = .write → s.lcd.wr = .character →
      s.lcd.req.pos < s.lcd.req.len → admits s.cfg (s.lcd.req.ptr + s.lcd.req.pos) = false →
      exec .evLcdRun s = .fault (.bufNotAdmitted (s.lcd.req.ptr + s.lcd.req.pos))) ∧
    (nvicEn s.cfg i = true → u.tc = true → crBit u.cr 6 = true → u.tx.pos < u.tx.size →
      admits s.cfg (u.tx.buf + u.tx.pos) = false →
      exec (.evIrq i) s = .fault (.bufNotAdmitted (u.tx.buf + u.tx.pos))) ∧
    (nvicEn s.cfg i = true → gated s.cfg.irqGate u.tc (crBit u.cr 6) = false → u.rxne = true → crBit u.cr 5 = true →
      u.rx.pos < u.rx.size → admits s.cfg (u.rx.buf + u.rx.pos) = false →
      exec (.evIrq i) s = .fault (.bufNotAdmitted (u.rx.buf + u.rx.pos)))

/-- R25, R29, R32, R35, R40 to R42, R46, R49, R70: every step keeps the invariant of the machine. -/
def Obligations.StepKeepsInvariant : Prop :=
  ∀ s t : State, Inv s → step s = .next t → Inv t

/-- R40, R49, R250, R252: under the machine's invariant no request is outstanding before init has ended, an
operational LCD stays operational, and no step reaches Off. -/
def Obligations.OperationalIsForEver : Prop :=
  ∀ s t : State, Inv s → step s = .next t →
    t.lcd.top ≠ .off ∧ (s.lcd.top = .operational → t.lcd.top = .operational) ∧
    (t.lcd.top = .init → t.lcd.req.state = .idle)
end

