-- ==== Sys2Proof/Laws/Decode.lean ====
section
/-! SUPPORT. The fields of a laid-out word, one lemma each, and the table's mask test on them. -/

namespace Sys2Proof

/-- Which field each bit of a laid-out word is (R101, R102). -/
theorem getLsbD_wordOf (u f : BitVec 4) (i r l : Byte) (k : Nat) :
    (wordOf u f i r l).getLsbD k =
      if k < 8 then l.getLsbD k else if k < 16 then r.getLsbD (k - 8) else if k < 24 then i.getLsbD (k - 16)
      else if k < 28 then f.getLsbD (k - 24) else u.getLsbD (k - 28) := by
  have h : (wordOf u f i r l).getLsbD k =
      ((((u ++ f : BitVec (4 + 4)) ++ i ++ r ++ l : BitVec (4 + 4 + 8 + 8 + 8)))).getLsbD k := rfl
  rw [h]
  simp only [BitVec.getLsbD_append]
  split_ifs <;> first | rfl | omega

@[simp] theorem lowOf_wordOf (u f : BitVec 4) (i r l : Byte) : lowOf (wordOf u f i r l) = l := by
  unfold lowOf
  ext k hk
  simp [getLsbD_wordOf, hk]

@[simp] theorem rowOf_wordOf (u f : BitVec 4) (i r l : Byte) : rowOf (wordOf u f i r l) = r := by
  unfold rowOf
  ext k hk
  simp [getLsbD_wordOf, show ¬ 8 + k < 8 by omega, show 8 + k < 16 by omega, hk]

@[simp] theorem instOf_wordOf (u f : BitVec 4) (i r l : Byte) : instOf (wordOf u f i r l) = i := by
  unfold instOf
  ext k hk
  simp [getLsbD_wordOf, show ¬ 16 + k < 8 by omega, show ¬ 16 + k < 16 by omega, show 16 + k < 24 by omega, hk]

@[simp] theorem fnOf_wordOf (u f : BitVec 4) (i r l : Byte) : fnOf (wordOf u f i r l) = f := by
  unfold fnOf
  ext k hk
  simp [getLsbD_wordOf, show ¬ 24 + k < 8 by omega, show ¬ 24 + k < 16 by omega, show ¬ 24 + k < 24 by omega,
    show 24 + k < 28 by omega, hk]

@[simp] theorem unitOf_wordOf (u f : BitVec 4) (i r l : Byte) : unitOf (wordOf u f i r l) = u := by
  unfold unitOf
  ext k hk
  simp [getLsbD_wordOf, show ¬ 28 + k < 8 by omega, show ¬ 28 + k < 16 by omega, show ¬ 28 + k < 24 by omega,
    show ¬ 28 + k < 28 by omega, hk]

/-- A word is the layout of its own fields. -/
theorem wordOf_fields (w : Word) : wordOf (unitOf w) (fnOf w) (instOf w) (rowOf w) (lowOf w) = w := by
  apply BitVec.eq_of_getLsbD_eq
  intro k hk
  rw [getLsbD_wordOf]
  simp only [unitOf, fnOf, instOf, rowOf, lowOf, BitVec.getLsbD_extractLsb']
  split_ifs
  · simp [*]
  · simp [show k - 8 < 8 by omega, show 8 + (k - 8) = k by omega]
  · simp [show k - 16 < 8 by omega, show 16 + (k - 16) = k by omega]
  · simp [show k - 24 < 4 by omega, show 24 + (k - 24) = k by omega]
  · simp [show k - 28 < 4 by omega, show 28 + (k - 28) = k by omega]

/-- Masking a laid-out word with a laid-out mask masks each field. -/
theorem wordOf_and (u f u' f' : BitVec 4) (i r l i' r' l' : Byte) :
    wordOf u f i r l &&& wordOf u' f' i' r' l' = wordOf (u &&& u') (f &&& f') (i &&& i') (r &&& r') (l &&& l') := by
  apply BitVec.eq_of_getLsbD_eq
  intro k _
  rw [BitVec.getLsbD_and]
  simp only [getLsbD_wordOf]
  split_ifs <;> simp

/-- Laid-out words are equal when their fields are. -/
theorem wordOf_inj (u f u' f' : BitVec 4) (i r l i' r' l' : Byte) :
    wordOf u f i r l = wordOf u' f' i' r' l' ↔ u = u' ∧ f = f' ∧ i = i' ∧ r = r' ∧ l = l' := by
  constructor
  · intro h
    exact ⟨by simpa using congrArg unitOf h, by simpa using congrArg fnOf h, by simpa using congrArg instOf h,
      by simpa using congrArg rowOf h, by simpa using congrArg lowOf h⟩
  · rintro ⟨rfl, rfl, rfl, rfl, rfl⟩
    rfl

/-- The table's full mask as a layout (R103). -/
theorem mask_full : (0xFFFFFFFF : Word) = wordOf 0xF 0xF 0xFF 0xFF 0xFF := by decide

/-- The mask of the rows with an `inst` operand as a layout (R103). -/
theorem mask_inst : (0xFF00FFFF : Word) = wordOf 0xF 0xF 0 0xFF 0xFF := by decide

/-- The mask of EV.RXBYTE as a layout (R103). -/
theorem mask_data : (0xFF00FF00 : Word) = wordOf 0xF 0xF 0 0xFF 0 := by decide

/-- The mask of LCD.WRITE as a layout (R103). -/
theorem mask_row_col : (0xFFFF0000 : Word) = wordOf 0xF 0xF 0xFF 0 0 := by decide

/-- All-ones of four bits keeps a field. -/
theorem and_ones4 (x : BitVec 4) : x &&& 0xF = x := by
  have : (0xF : BitVec 4) = BitVec.allOnes 4 := by decide
  rw [this, BitVec.and_allOnes]

/-- All-ones of eight bits keeps a field. -/
theorem and_ones8 (x : Byte) : x &&& 0xFF = x := by
  have : (0xFF : Byte) = BitVec.allOnes 8 := by decide
  rw [this, BitVec.and_allOnes]

end Sys2Proof
end

