-- ==== Sys2Proof/Laws/Memory.lean ====
section
/-! SUPPORT. The laws of BUF: read after write, and the canonical form (20_memory.md R70, R72). -/

namespace Sys2Proof.Machine

@[simp] theorem Memory.read_write_same (m : Memory) (a : Nat) (b : Byte) :
    Memory.read (Memory.write m a b) a = some b := by
  induction m with
  | nil => simp [Memory.write, Memory.read]
  | cons c rest ih =>
    obtain ⟨k, v⟩ := c
    unfold Memory.write
    split_ifs with h1 h2
    · simp [Memory.read]
    · simp [Memory.read]
    · have : k ≠ a := fun h => h2 h.symm
      simp [Memory.read, this, ih]

theorem Memory.read_write_other (m : Memory) {a x : Nat} (b : Byte) (hne : x ≠ a) :
    Memory.read (Memory.write m a b) x = Memory.read m x := by
  induction m with
  | nil => simp [Memory.write, Memory.read, hne.symm]
  | cons c rest ih =>
    obtain ⟨k, v⟩ := c
    unfold Memory.write
    split_ifs with h1 h2
    · simp [Memory.read, hne.symm]
    · subst h2
      simp [Memory.read, hne.symm]
    · simp [Memory.read, ih]

/-- A write keeps the addresses rising, from any bound below the address written. -/
theorem Memory.sortedFrom_write (m : Memory) (lo a : Nat) (b : Byte) (hlo : lo ≤ a) (ha : a < 2 ^ 32)
    (h : Memory.sortedFrom lo m = true) : Memory.sortedFrom lo (Memory.write m a b) = true := by
  induction m generalizing lo with
  | nil => simp [Memory.write, Memory.sortedFrom, hlo]; exact ha
  | cons c rest ih =>
    obtain ⟨k, v⟩ := c
    simp only [Memory.sortedFrom, Bool.and_eq_true, decide_eq_true_eq] at h
    unfold Memory.write
    split_ifs with h1 h2
    · simp only [Memory.sortedFrom, Bool.and_eq_true, decide_eq_true_eq]
      exact ⟨⟨hlo, ha⟩, ⟨by omega, h.1.2⟩, h.2⟩
    · subst h2
      simp only [Memory.sortedFrom, Bool.and_eq_true, decide_eq_true_eq]
      exact h
    · simp only [Memory.sortedFrom, Bool.and_eq_true, decide_eq_true_eq]
      exact ⟨h.1, ih (k + 1) (by omega) h.2⟩

/-- A write at a 32-bit address other than 0 keeps the canonical form. -/
theorem Memory.wf_write {m : Memory} {a : Nat} (b : Byte) (h0 : a ≠ 0) (ha : a < 2 ^ 32) (h : Memory.wf m = true) :
    Memory.wf (Memory.write m a b) = true :=
  Memory.sortedFrom_write m 1 a b (by omega) ha h

@[simp] theorem Memory.wf_nil : Memory.wf [] = true := rfl

@[simp] theorem bufByte_write_same (m : Memory) (a : Nat) (b : Byte) : bufByte (Memory.write m a b) a = b := by
  simp [bufByte]

theorem bufByte_write_other (m : Memory) {a x : Nat} (b : Byte) (hne : x ≠ a) :
    bufByte (Memory.write m a b) x = bufByte m x := by
  simp [bufByte, Memory.read_write_other m b hne]

/-- Address 0 is never admitted (R70). -/
theorem admits_ne_zero {c : Config} {a : Word} (h : admits c a = true) : a ≠ 0 := by
  simp only [admits, Bool.and_eq_true, bne_iff_ne] at h
  exact h.1

/-- A read answers exactly at an admitted address, with the byte held there. -/
theorem load_next {s : State} {a : Word} {b : Byte} :
    load s a = .next b ↔ admits s.cfg a = true ∧ bufByte s.buf a.toNat = b := by
  unfold load
  split_ifs with h <;> simp [h]

theorem load_admitted {s : State} {a : Word} (h : admits s.cfg a = true) :
    load s a = .next (bufByte s.buf a.toNat) := by
  simp [load, h]

/-- A write answers exactly at an admitted address, and changes that byte alone. -/
theorem store_next {s t : State} {a : Word} {b : Byte} :
    store a b s = .next t ↔ admits s.cfg a = true ∧ { s with buf := Memory.write s.buf a.toNat b } = t := by
  unfold store
  split_ifs with h <;> simp [h]

theorem store_admitted {s : State} {a : Word} (b : Byte) (h : admits s.cfg a = true) :
    store a b s = .next { s with buf := Memory.write s.buf a.toNat b } := by
  simp [store, h]

/-- A store keeps the canonical form. -/
theorem store_keeps_wf {s t : State} {a : Word} {b : Byte} (h : store a b s = .next t)
    (hw : Memory.wf s.buf = true) : Memory.wf t.buf = true := by
  obtain ⟨ha, rfl⟩ := store_next.1 h
  refine Memory.wf_write b ?_ a.isLt hw
  intro h0
  exact admits_ne_zero ha (BitVec.eq_of_toNat_eq (by simpa using h0))

end Sys2Proof.Machine
end

