-- ==== Sys2Proof/Laws/State.lean ====
section
/-! SUPPORT. What each named update does to each field of the state, by `rfl`, so that no proof unfolds a record
update. -/

namespace Sys2Proof.Machine

/-! ### emit -/

@[simp] theorem emit_cfg (e : Event) (s : State) : (emit e s).cfg = s.cfg := rfl
@[simp] theorem emit_port (e : Event) (s : State) : (emit e s).port = s.port := rfl
@[simp] theorem emit_sch (e : Event) (s : State) : (emit e s).sch = s.sch := rfl
@[simp] theorem emit_st (e : Event) (s : State) : (emit e s).st = s.st := rfl
@[simp] theorem emit_us (e : Event) (s : State) : (emit e s).us = s.us := rfl
@[simp] theorem emit_lcd (e : Event) (s : State) : (emit e s).lcd = s.lcd := rfl
@[simp] theorem emit_buf (e : Event) (s : State) : (emit e s).buf = s.buf := rfl
@[simp] theorem emit_trace (e : Event) (s : State) : (emit e s).trace = s.trace ++ [e] := rfl
@[simp] theorem emit_accepts (e : Event) (s : State) : (emit e s).accepts = s.accepts := rfl
@[simp] theorem emit_env (e : Event) (s : State) : (emit e s).env = s.env := rfl
@[simp] theorem emit_draws (e : Event) (s : State) : (emit e s).draws = s.draws := rfl

/-! ### ret -/

@[simp] theorem ret_cfg (c : Word) (s : State) : (ret c s).cfg = s.cfg := rfl
@[simp] theorem ret_port (c : Word) (s : State) : (ret c s).port = { s.port with r0 := c } := rfl
@[simp] theorem ret_sch (c : Word) (s : State) : (ret c s).sch = s.sch := rfl
@[simp] theorem ret_st (c : Word) (s : State) : (ret c s).st = s.st := rfl
@[simp] theorem ret_us (c : Word) (s : State) : (ret c s).us = s.us := rfl
@[simp] theorem ret_lcd (c : Word) (s : State) : (ret c s).lcd = s.lcd := rfl
@[simp] theorem ret_buf (c : Word) (s : State) : (ret c s).buf = s.buf := rfl
@[simp] theorem ret_trace (c : Word) (s : State) : (ret c s).trace = s.trace ++ [.ret c] := rfl
@[simp] theorem ret_accepts (c : Word) (s : State) : (ret c s).accepts = s.accepts := rfl
@[simp] theorem ret_env (c : Word) (s : State) : (ret c s).env = s.env := rfl
@[simp] theorem ret_draws (c : Word) (s : State) : (ret c s).draws = s.draws := rfl

/-! ### modUs -/

@[simp] theorem modUs_cfg (i : Byte) (f : Usart → Usart) (s : State) : (modUs i f s).cfg = s.cfg := rfl
@[simp] theorem modUs_port (i : Byte) (f : Usart → Usart) (s : State) : (modUs i f s).port = s.port := rfl
@[simp] theorem modUs_sch (i : Byte) (f : Usart → Usart) (s : State) : (modUs i f s).sch = s.sch := rfl
@[simp] theorem modUs_st (i : Byte) (f : Usart → Usart) (s : State) : (modUs i f s).st = s.st := rfl
@[simp] theorem modUs_us (i : Byte) (f : Usart → Usart) (s : State) : (modUs i f s).us = s.us.modify i.toNat f := rfl
@[simp] theorem modUs_lcd (i : Byte) (f : Usart → Usart) (s : State) : (modUs i f s).lcd = s.lcd := rfl
@[simp] theorem modUs_buf (i : Byte) (f : Usart → Usart) (s : State) : (modUs i f s).buf = s.buf := rfl
@[simp] theorem modUs_trace (i : Byte) (f : Usart → Usart) (s : State) : (modUs i f s).trace = s.trace := rfl
@[simp] theorem modUs_accepts (i : Byte) (f : Usart → Usart) (s : State) : (modUs i f s).accepts = s.accepts := rfl
@[simp] theorem modUs_env (i : Byte) (f : Usart → Usart) (s : State) : (modUs i f s).env = s.env := rfl
@[simp] theorem modUs_draws (i : Byte) (f : Usart → Usart) (s : State) : (modUs i f s).draws = s.draws := rfl

/-! ### setLcd -/

@[simp] theorem setLcd_cfg (l : Lcd) (s : State) : (setLcd l s).cfg = s.cfg := rfl
@[simp] theorem setLcd_port (l : Lcd) (s : State) : (setLcd l s).port = s.port := rfl
@[simp] theorem setLcd_sch (l : Lcd) (s : State) : (setLcd l s).sch = s.sch := rfl
@[simp] theorem setLcd_st (l : Lcd) (s : State) : (setLcd l s).st = s.st := rfl
@[simp] theorem setLcd_us (l : Lcd) (s : State) : (setLcd l s).us = s.us := rfl
@[simp] theorem setLcd_lcd (l : Lcd) (s : State) : (setLcd l s).lcd = l := rfl
@[simp] theorem setLcd_buf (l : Lcd) (s : State) : (setLcd l s).buf = s.buf := rfl
@[simp] theorem setLcd_trace (l : Lcd) (s : State) : (setLcd l s).trace = s.trace := rfl
@[simp] theorem setLcd_accepts (l : Lcd) (s : State) : (setLcd l s).accepts = s.accepts := rfl
@[simp] theorem setLcd_env (l : Lcd) (s : State) : (setLcd l s).env = s.env := rfl
@[simp] theorem setLcd_draws (l : Lcd) (s : State) : (setLcd l s).draws = s.draws := rfl

/-! ### emitPin -/

@[simp] theorem emitPin_cfg (s : State) : (emitPin s).cfg = s.cfg := rfl
@[simp] theorem emitPin_port (s : State) : (emitPin s).port = s.port := rfl
@[simp] theorem emitPin_sch (s : State) : (emitPin s).sch = s.sch := rfl
@[simp] theorem emitPin_st (s : State) : (emitPin s).st = s.st := rfl
@[simp] theorem emitPin_us (s : State) : (emitPin s).us = s.us := rfl
@[simp] theorem emitPin_lcd (s : State) : (emitPin s).lcd = s.lcd := rfl
@[simp] theorem emitPin_buf (s : State) : (emitPin s).buf = s.buf := rfl
@[simp] theorem emitPin_trace (s : State) : (emitPin s).trace = s.trace ++ [.pin s.lcd.rs s.lcd.e s.lcd.d] := rfl
@[simp] theorem emitPin_accepts (s : State) : (emitPin s).accepts = s.accepts := rfl
@[simp] theorem emitPin_env (s : State) : (emitPin s).env = s.env := rfl
@[simp] theorem emitPin_draws (s : State) : (emitPin s).draws = s.draws := rfl

/-! ### setSch -/

@[simp] theorem setSch_cfg (c : Sched) (s : State) : (setSch c s).cfg = s.cfg := rfl
@[simp] theorem setSch_port (c : Sched) (s : State) : (setSch c s).port = s.port := rfl
@[simp] theorem setSch_sch (c : Sched) (s : State) : (setSch c s).sch = c := rfl
@[simp] theorem setSch_st (c : Sched) (s : State) : (setSch c s).st = s.st := rfl
@[simp] theorem setSch_us (c : Sched) (s : State) : (setSch c s).us = s.us := rfl
@[simp] theorem setSch_lcd (c : Sched) (s : State) : (setSch c s).lcd = s.lcd := rfl
@[simp] theorem setSch_buf (c : Sched) (s : State) : (setSch c s).buf = s.buf := rfl
@[simp] theorem setSch_trace (c : Sched) (s : State) : (setSch c s).trace = s.trace := rfl
@[simp] theorem setSch_accepts (c : Sched) (s : State) : (setSch c s).accepts = s.accepts := rfl
@[simp] theorem setSch_env (c : Sched) (s : State) : (setSch c s).env = s.env := rfl
@[simp] theorem setSch_draws (c : Sched) (s : State) : (setSch c s).draws = s.draws := rfl

/-! ### schTick -/

@[simp] theorem schTick_cfg (s : State) : (schTick s).cfg = s.cfg := rfl
@[simp] theorem schTick_port (s : State) : (schTick s).port = s.port := rfl
@[simp] theorem schTick_sch (s : State) : (schTick s).sch = { s.sch with pending := s.sch.pending + 1 } := rfl
@[simp] theorem schTick_st (s : State) : (schTick s).st = s.st := rfl
@[simp] theorem schTick_us (s : State) : (schTick s).us = s.us := rfl
@[simp] theorem schTick_lcd (s : State) : (schTick s).lcd = s.lcd := rfl
@[simp] theorem schTick_buf (s : State) : (schTick s).buf = s.buf := rfl
@[simp] theorem schTick_trace (s : State) : (schTick s).trace = s.trace := rfl
@[simp] theorem schTick_accepts (s : State) : (schTick s).accepts = s.accepts := rfl
@[simp] theorem schTick_env (s : State) : (schTick s).env = s.env := rfl
@[simp] theorem schTick_draws (s : State) : (schTick s).draws = s.draws := rfl

/-! ### stSetPeriod -/

@[simp] theorem stSetPeriod_cfg (p : Word) (s : State) : (stSetPeriod p s).cfg = s.cfg := rfl
@[simp] theorem stSetPeriod_port (p : Word) (s : State) : (stSetPeriod p s).port = s.port := rfl
@[simp] theorem stSetPeriod_sch (p : Word) (s : State) : (stSetPeriod p s).sch = s.sch := rfl
@[simp] theorem stSetPeriod_st (p : Word) (s : State) : (stSetPeriod p s).st = { s.st with periodMs := p } := rfl
@[simp] theorem stSetPeriod_us (p : Word) (s : State) : (stSetPeriod p s).us = s.us := rfl
@[simp] theorem stSetPeriod_lcd (p : Word) (s : State) : (stSetPeriod p s).lcd = s.lcd := rfl
@[simp] theorem stSetPeriod_buf (p : Word) (s : State) : (stSetPeriod p s).buf = s.buf := rfl
@[simp] theorem stSetPeriod_trace (p : Word) (s : State) : (stSetPeriod p s).trace = s.trace ++ [.st (.setPeriodMilliseconds p)] := rfl
@[simp] theorem stSetPeriod_accepts (p : Word) (s : State) : (stSetPeriod p s).accepts = s.accepts := rfl
@[simp] theorem stSetPeriod_env (p : Word) (s : State) : (stSetPeriod p s).env = s.env := rfl
@[simp] theorem stSetPeriod_draws (p : Word) (s : State) : (stSetPeriod p s).draws = s.draws := rfl

/-! ### stRegister -/

@[simp] theorem stRegister_cfg (fn : Word) (k : Fin 3) (s : State) : (stRegister fn k s).cfg = s.cfg := rfl
@[simp] theorem stRegister_port (fn : Word) (k : Fin 3) (s : State) : (stRegister fn k s).port = s.port := rfl
@[simp] theorem stRegister_sch (fn : Word) (k : Fin 3) (s : State) : (stRegister fn k s).sch = s.sch := rfl
@[simp] theorem stRegister_st (fn : Word) (k : Fin 3) (s : State) : (stRegister fn k s).st = stSetCb fn k s.st := rfl
@[simp] theorem stRegister_us (fn : Word) (k : Fin 3) (s : State) : (stRegister fn k s).us = s.us := rfl
@[simp] theorem stRegister_lcd (fn : Word) (k : Fin 3) (s : State) : (stRegister fn k s).lcd = s.lcd := rfl
@[simp] theorem stRegister_buf (fn : Word) (k : Fin 3) (s : State) : (stRegister fn k s).buf = s.buf := rfl
@[simp] theorem stRegister_trace (fn : Word) (k : Fin 3) (s : State) : (stRegister fn k s).trace = s.trace ++ [.st (.registerCallback fn k)] := rfl
@[simp] theorem stRegister_accepts (fn : Word) (k : Fin 3) (s : State) : (stRegister fn k s).accepts = s.accepts := rfl
@[simp] theorem stRegister_env (fn : Word) (k : Fin 3) (s : State) : (stRegister fn k s).env = s.env := rfl
@[simp] theorem stRegister_draws (fn : Word) (k : Fin 3) (s : State) : (stRegister fn k s).draws = s.draws := rfl

/-! ### stStart -/

@[simp] theorem stStart_cfg (src : Word) (s : State) : (stStart src s).cfg = s.cfg := rfl
@[simp] theorem stStart_port (src : Word) (s : State) : (stStart src s).port = s.port := rfl
@[simp] theorem stStart_sch (src : Word) (s : State) : (stStart src s).sch = s.sch := rfl
@[simp] theorem stStart_st (src : Word) (s : State) : (stStart src s).st = { s.st with running := true } := rfl
@[simp] theorem stStart_us (src : Word) (s : State) : (stStart src s).us = s.us := rfl
@[simp] theorem stStart_lcd (src : Word) (s : State) : (stStart src s).lcd = s.lcd := rfl
@[simp] theorem stStart_buf (src : Word) (s : State) : (stStart src s).buf = s.buf := rfl
@[simp] theorem stStart_trace (src : Word) (s : State) : (stStart src s).trace = s.trace ++ [.st (.start src)] := rfl
@[simp] theorem stStart_accepts (src : Word) (s : State) : (stStart src s).accepts = s.accepts := rfl
@[simp] theorem stStart_env (src : Word) (s : State) : (stStart src s).env = s.env := rfl
@[simp] theorem stStart_draws (src : Word) (s : State) : (stStart src s).draws = s.draws := rfl

/-! ### stStop -/

@[simp] theorem stStop_cfg (s : State) : (stStop s).cfg = s.cfg := rfl
@[simp] theorem stStop_port (s : State) : (stStop s).port = s.port := rfl
@[simp] theorem stStop_sch (s : State) : (stStop s).sch = s.sch := rfl
@[simp] theorem stStop_st (s : State) : (stStop s).st = { s.st with running := false } := rfl
@[simp] theorem stStop_us (s : State) : (stStop s).us = s.us := rfl
@[simp] theorem stStop_lcd (s : State) : (stStop s).lcd = s.lcd := rfl
@[simp] theorem stStop_buf (s : State) : (stStop s).buf = s.buf := rfl
@[simp] theorem stStop_trace (s : State) : (stStop s).trace = s.trace ++ [.st .stop] := rfl
@[simp] theorem stStop_accepts (s : State) : (stStop s).accepts = s.accepts := rfl
@[simp] theorem stStop_env (s : State) : (stStop s).env = s.env := rfl
@[simp] theorem stStop_draws (s : State) : (stStop s).draws = s.draws := rfl

/-! ### setOperand -/

@[simp] theorem setOperand_cfg (r : OpReg) (v : Word) (s : State) : (setOperand r v s).cfg = s.cfg := by
  cases r <;> rfl
@[simp] theorem setOperand_sch (r : OpReg) (v : Word) (s : State) : (setOperand r v s).sch = s.sch := by
  cases r <;> rfl
@[simp] theorem setOperand_st (r : OpReg) (v : Word) (s : State) : (setOperand r v s).st = s.st := by
  cases r <;> rfl
@[simp] theorem setOperand_us (r : OpReg) (v : Word) (s : State) : (setOperand r v s).us = s.us := by
  cases r <;> rfl
@[simp] theorem setOperand_lcd (r : OpReg) (v : Word) (s : State) : (setOperand r v s).lcd = s.lcd := by
  cases r <;> rfl
@[simp] theorem setOperand_buf (r : OpReg) (v : Word) (s : State) : (setOperand r v s).buf = s.buf := by
  cases r <;> rfl
@[simp] theorem setOperand_trace (r : OpReg) (v : Word) (s : State) : (setOperand r v s).trace = s.trace := by
  cases r <;> rfl
@[simp] theorem setOperand_accepts (r : OpReg) (v : Word) (s : State) : (setOperand r v s).accepts = s.accepts := by
  cases r <;> rfl
@[simp] theorem setOperand_env (r : OpReg) (v : Word) (s : State) : (setOperand r v s).env = s.env := by
  cases r <;> rfl
@[simp] theorem setOperand_draws (r : OpReg) (v : Word) (s : State) : (setOperand r v s).draws = s.draws := by
  cases r <;> rfl

/-! ### Usart.setCr -/

@[simp] theorem Usart.setCr_cr (u : Usart) (k : Nat) (b : Bool) : (u.setCr k b).cr = crSet u.cr k b := rfl
@[simp] theorem Usart.setCr_tc (u : Usart) (k : Nat) (b : Bool) : (u.setCr k b).tc = u.tc := rfl
@[simp] theorem Usart.setCr_rxne (u : Usart) (k : Nat) (b : Bool) : (u.setCr k b).rxne = u.rxne := rfl
@[simp] theorem Usart.setCr_txInflight (u : Usart) (k : Nat) (b : Bool) : (u.setCr k b).txInflight = u.txInflight := rfl
@[simp] theorem Usart.setCr_drRx (u : Usart) (k : Nat) (b : Bool) : (u.setCr k b).drRx = u.drRx := rfl
@[simp] theorem Usart.setCr_brr (u : Usart) (k : Nat) (b : Bool) : (u.setCr k b).brr = u.brr := rfl
@[simp] theorem Usart.setCr_stop (u : Usart) (k : Nat) (b : Bool) : (u.setCr k b).stop = u.stop := rfl
@[simp] theorem Usart.setCr_tx (u : Usart) (k : Nat) (b : Bool) : (u.setCr k b).tx = u.tx := rfl
@[simp] theorem Usart.setCr_rx (u : Usart) (k : Nat) (b : Bool) : (u.setCr k b).rx = u.rx := rfl
@[simp] theorem Usart.setCr_rb (u : Usart) (k : Nat) (b : Bool) : (u.setCr k b).rb = u.rb := rfl

/-! ### Usart.startFrame -/

@[simp] theorem Usart.startFrame_cr (b : Byte) (u : Usart) : (u.startFrame b).cr = u.cr := rfl
@[simp] theorem Usart.startFrame_tc (b : Byte) (u : Usart) : (u.startFrame b).tc = false := rfl
@[simp] theorem Usart.startFrame_rxne (b : Byte) (u : Usart) : (u.startFrame b).rxne = u.rxne := rfl
@[simp] theorem Usart.startFrame_txInflight (b : Byte) (u : Usart) : (u.startFrame b).txInflight = some b := rfl
@[simp] theorem Usart.startFrame_drRx (b : Byte) (u : Usart) : (u.startFrame b).drRx = u.drRx := rfl
@[simp] theorem Usart.startFrame_brr (b : Byte) (u : Usart) : (u.startFrame b).brr = u.brr := rfl
@[simp] theorem Usart.startFrame_stop (b : Byte) (u : Usart) : (u.startFrame b).stop = u.stop := rfl
@[simp] theorem Usart.startFrame_tx (b : Byte) (u : Usart) : (u.startFrame b).tx = u.tx := rfl
@[simp] theorem Usart.startFrame_rx (b : Byte) (u : Usart) : (u.startFrame b).rx = u.rx := rfl
@[simp] theorem Usart.startFrame_rb (b : Byte) (u : Usart) : (u.startFrame b).rb = u.rb := rfl

/-! ### Usart.beginSendB -/

@[simp] theorem Usart.beginSendB_cr (u : Usart) : (u.beginSendB).cr = crSet u.cr bitTxen true := rfl
@[simp] theorem Usart.beginSendB_tc (u : Usart) : (u.beginSendB).tc = u.tc := rfl
@[simp] theorem Usart.beginSendB_rxne (u : Usart) : (u.beginSendB).rxne = u.rxne := rfl
@[simp] theorem Usart.beginSendB_txInflight (u : Usart) : (u.beginSendB).txInflight = u.txInflight := rfl
@[simp] theorem Usart.beginSendB_drRx (u : Usart) : (u.beginSendB).drRx = u.drRx := rfl
@[simp] theorem Usart.beginSendB_brr (u : Usart) : (u.beginSendB).brr = u.brr := rfl
@[simp] theorem Usart.beginSendB_stop (u : Usart) : (u.beginSendB).stop = u.stop := rfl
@[simp] theorem Usart.beginSendB_tx (u : Usart) : (u.beginSendB).tx = { u.tx with state := .busy } := rfl
@[simp] theorem Usart.beginSendB_rx (u : Usart) : (u.beginSendB).rx = u.rx := rfl
@[simp] theorem Usart.beginSendB_rb (u : Usart) : (u.beginSendB).rb = u.rb := rfl

/-! ### Usart.endSendB -/

@[simp] theorem Usart.endSendB_cr (u : Usart) : (u.endSendB).cr = u.cr := rfl
@[simp] theorem Usart.endSendB_tc (u : Usart) : (u.endSendB).tc = u.tc := rfl
@[simp] theorem Usart.endSendB_rxne (u : Usart) : (u.endSendB).rxne = u.rxne := rfl
@[simp] theorem Usart.endSendB_txInflight (u : Usart) : (u.endSendB).txInflight = u.txInflight := rfl
@[simp] theorem Usart.endSendB_drRx (u : Usart) : (u.endSendB).drRx = u.drRx := rfl
@[simp] theorem Usart.endSendB_brr (u : Usart) : (u.endSendB).brr = u.brr := rfl
@[simp] theorem Usart.endSendB_stop (u : Usart) : (u.endSendB).stop = u.stop := rfl
@[simp] theorem Usart.endSendB_tx (u : Usart) : (u.endSendB).tx = { u.tx with state := .idle } := rfl
@[simp] theorem Usart.endSendB_rx (u : Usart) : (u.endSendB).rx = u.rx := rfl
@[simp] theorem Usart.endSendB_rb (u : Usart) : (u.endSendB).rb = u.rb := rfl

/-! ### Usart.beginRecvB -/

@[simp] theorem Usart.beginRecvB_cr (a : Word) (u : Usart) : (u.beginRecvB a).cr = crSet u.cr bitRxen true := rfl
@[simp] theorem Usart.beginRecvB_tc (a : Word) (u : Usart) : (u.beginRecvB a).tc = u.tc := rfl
@[simp] theorem Usart.beginRecvB_rxne (a : Word) (u : Usart) : (u.beginRecvB a).rxne = u.rxne := rfl
@[simp] theorem Usart.beginRecvB_txInflight (a : Word) (u : Usart) : (u.beginRecvB a).txInflight = u.txInflight := rfl
@[simp] theorem Usart.beginRecvB_drRx (a : Word) (u : Usart) : (u.beginRecvB a).drRx = u.drRx := rfl
@[simp] theorem Usart.beginRecvB_brr (a : Word) (u : Usart) : (u.beginRecvB a).brr = u.brr := rfl
@[simp] theorem Usart.beginRecvB_stop (a : Word) (u : Usart) : (u.beginRecvB a).stop = u.stop := rfl
@[simp] theorem Usart.beginRecvB_tx (a : Word) (u : Usart) : (u.beginRecvB a).tx = u.tx := rfl
@[simp] theorem Usart.beginRecvB_rx (a : Word) (u : Usart) : (u.beginRecvB a).rx = { u.rx with state := .busy } := rfl
@[simp] theorem Usart.beginRecvB_rb (a : Word) (u : Usart) : (u.beginRecvB a).rb = { phase := .spinning, spin := 0, buf := a } := rfl

/-! ### Usart.spinOnce -/

@[simp] theorem Usart.spinOnce_cr (u : Usart) : (u.spinOnce).cr = u.cr := rfl
@[simp] theorem Usart.spinOnce_tc (u : Usart) : (u.spinOnce).tc = u.tc := rfl
@[simp] theorem Usart.spinOnce_rxne (u : Usart) : (u.spinOnce).rxne = u.rxne := rfl
@[simp] theorem Usart.spinOnce_txInflight (u : Usart) : (u.spinOnce).txInflight = u.txInflight := rfl
@[simp] theorem Usart.spinOnce_drRx (u : Usart) : (u.spinOnce).drRx = u.drRx := rfl
@[simp] theorem Usart.spinOnce_brr (u : Usart) : (u.spinOnce).brr = u.brr := rfl
@[simp] theorem Usart.spinOnce_stop (u : Usart) : (u.spinOnce).stop = u.stop := rfl
@[simp] theorem Usart.spinOnce_tx (u : Usart) : (u.spinOnce).tx = u.tx := rfl
@[simp] theorem Usart.spinOnce_rx (u : Usart) : (u.spinOnce).rx = u.rx := rfl
@[simp] theorem Usart.spinOnce_rb (u : Usart) : (u.spinOnce).rb = { u.rb with spin := u.rb.spin + 1 } := rfl

/-! ### Usart.beginSendA -/

@[simp] theorem Usart.beginSendA_cr (a b c : Word) (u : Usart) : (u.beginSendA a b c).cr = crSet u.cr bitTxen true := rfl
@[simp] theorem Usart.beginSendA_tc (a b c : Word) (u : Usart) : (u.beginSendA a b c).tc = u.tc := rfl
@[simp] theorem Usart.beginSendA_rxne (a b c : Word) (u : Usart) : (u.beginSendA a b c).rxne = u.rxne := rfl
@[simp] theorem Usart.beginSendA_txInflight (a b c : Word) (u : Usart) : (u.beginSendA a b c).txInflight = u.txInflight := rfl
@[simp] theorem Usart.beginSendA_drRx (a b c : Word) (u : Usart) : (u.beginSendA a b c).drRx = u.drRx := rfl
@[simp] theorem Usart.beginSendA_brr (a b c : Word) (u : Usart) : (u.beginSendA a b c).brr = u.brr := rfl
@[simp] theorem Usart.beginSendA_stop (a b c : Word) (u : Usart) : (u.beginSendA a b c).stop = u.stop := rfl
@[simp] theorem Usart.beginSendA_tx (a b c : Word) (u : Usart) : (u.beginSendA a b c).tx = { u.tx with buf := a, size := b, cb := c, state := .busy } := rfl
@[simp] theorem Usart.beginSendA_rx (a b c : Word) (u : Usart) : (u.beginSendA a b c).rx = u.rx := rfl
@[simp] theorem Usart.beginSendA_rb (a b c : Word) (u : Usart) : (u.beginSendA a b c).rb = u.rb := rfl

/-! ### Usart.armSendA -/

@[simp] theorem Usart.armSendA_cr (u : Usart) : (u.armSendA).cr = crSet u.cr bitTcie true := rfl
@[simp] theorem Usart.armSendA_tc (u : Usart) : (u.armSendA).tc = u.tc := rfl
@[simp] theorem Usart.armSendA_rxne (u : Usart) : (u.armSendA).rxne = u.rxne := rfl
@[simp] theorem Usart.armSendA_txInflight (u : Usart) : (u.armSendA).txInflight = u.txInflight := rfl
@[simp] theorem Usart.armSendA_drRx (u : Usart) : (u.armSendA).drRx = u.drRx := rfl
@[simp] theorem Usart.armSendA_brr (u : Usart) : (u.armSendA).brr = u.brr := rfl
@[simp] theorem Usart.armSendA_stop (u : Usart) : (u.armSendA).stop = u.stop := rfl
@[simp] theorem Usart.armSendA_tx (u : Usart) : (u.armSendA).tx = { u.tx with pos := 1 } := rfl
@[simp] theorem Usart.armSendA_rx (u : Usart) : (u.armSendA).rx = u.rx := rfl
@[simp] theorem Usart.armSendA_rb (u : Usart) : (u.armSendA).rb = u.rb := rfl

/-! ### Usart.beginRecvA -/

@[simp] theorem Usart.beginRecvA_cr (a b c : Word) (u : Usart) : (u.beginRecvA a b c).cr = crSet (crSet u.cr bitRxen true) bitRxneie true := rfl
@[simp] theorem Usart.beginRecvA_tc (a b c : Word) (u : Usart) : (u.beginRecvA a b c).tc = u.tc := rfl
@[simp] theorem Usart.beginRecvA_rxne (a b c : Word) (u : Usart) : (u.beginRecvA a b c).rxne = u.rxne := rfl
@[simp] theorem Usart.beginRecvA_txInflight (a b c : Word) (u : Usart) : (u.beginRecvA a b c).txInflight = u.txInflight := rfl
@[simp] theorem Usart.beginRecvA_drRx (a b c : Word) (u : Usart) : (u.beginRecvA a b c).drRx = u.drRx := rfl
@[simp] theorem Usart.beginRecvA_brr (a b c : Word) (u : Usart) : (u.beginRecvA a b c).brr = u.brr := rfl
@[simp] theorem Usart.beginRecvA_stop (a b c : Word) (u : Usart) : (u.beginRecvA a b c).stop = u.stop := rfl
@[simp] theorem Usart.beginRecvA_tx (a b c : Word) (u : Usart) : (u.beginRecvA a b c).tx = u.tx := rfl
@[simp] theorem Usart.beginRecvA_rx (a b c : Word) (u : Usart) : (u.beginRecvA a b c).rx = { buf := a, size := b, cb := c, pos := 0, state := .busy } := rfl
@[simp] theorem Usart.beginRecvA_rb (a b c : Word) (u : Usart) : (u.beginRecvA a b c).rb = u.rb := rfl

/-! ### Usart.endFrame -/

@[simp] theorem Usart.endFrame_cr (u : Usart) : (u.endFrame).cr = u.cr := rfl
@[simp] theorem Usart.endFrame_tc (u : Usart) : (u.endFrame).tc = true := rfl
@[simp] theorem Usart.endFrame_rxne (u : Usart) : (u.endFrame).rxne = u.rxne := rfl
@[simp] theorem Usart.endFrame_txInflight (u : Usart) : (u.endFrame).txInflight = none := rfl
@[simp] theorem Usart.endFrame_drRx (u : Usart) : (u.endFrame).drRx = u.drRx := rfl
@[simp] theorem Usart.endFrame_brr (u : Usart) : (u.endFrame).brr = u.brr := rfl
@[simp] theorem Usart.endFrame_stop (u : Usart) : (u.endFrame).stop = u.stop := rfl
@[simp] theorem Usart.endFrame_tx (u : Usart) : (u.endFrame).tx = u.tx := rfl
@[simp] theorem Usart.endFrame_rx (u : Usart) : (u.endFrame).rx = u.rx := rfl
@[simp] theorem Usart.endFrame_rb (u : Usart) : (u.endFrame).rb = u.rb := rfl

/-! ### Usart.takeByte -/

@[simp] theorem Usart.takeByte_cr (d : Byte) (u : Usart) : (u.takeByte d).cr = u.cr := rfl
@[simp] theorem Usart.takeByte_tc (d : Byte) (u : Usart) : (u.takeByte d).tc = u.tc := rfl
@[simp] theorem Usart.takeByte_rxne (d : Byte) (u : Usart) : (u.takeByte d).rxne = true := rfl
@[simp] theorem Usart.takeByte_txInflight (d : Byte) (u : Usart) : (u.takeByte d).txInflight = u.txInflight := rfl
@[simp] theorem Usart.takeByte_drRx (d : Byte) (u : Usart) : (u.takeByte d).drRx = d := rfl
@[simp] theorem Usart.takeByte_brr (d : Byte) (u : Usart) : (u.takeByte d).brr = u.brr := rfl
@[simp] theorem Usart.takeByte_stop (d : Byte) (u : Usart) : (u.takeByte d).stop = u.stop := rfl
@[simp] theorem Usart.takeByte_tx (d : Byte) (u : Usart) : (u.takeByte d).tx = u.tx := rfl
@[simp] theorem Usart.takeByte_rx (d : Byte) (u : Usart) : (u.takeByte d).rx = u.rx := rfl
@[simp] theorem Usart.takeByte_rb (d : Byte) (u : Usart) : (u.takeByte d).rb = u.rb := rfl

/-! ### Usart.drawByte -/

@[simp] theorem Usart.drawByte_cr (n : Bool) (d : Byte) (u : Usart) : (u.drawByte n d).cr = u.cr := rfl
@[simp] theorem Usart.drawByte_tc (n : Bool) (d : Byte) (u : Usart) : (u.drawByte n d).tc = u.tc := rfl
@[simp] theorem Usart.drawByte_rxne (n : Bool) (d : Byte) (u : Usart) : (u.drawByte n d).rxne = u.rxne := rfl
@[simp] theorem Usart.drawByte_txInflight (n : Bool) (d : Byte) (u : Usart) : (u.drawByte n d).txInflight = u.txInflight := rfl
@[simp] theorem Usart.drawByte_drRx (n : Bool) (d : Byte) (u : Usart) : (u.drawByte n d).drRx = if n then d else u.drRx := rfl
@[simp] theorem Usart.drawByte_brr (n : Bool) (d : Byte) (u : Usart) : (u.drawByte n d).brr = u.brr := rfl
@[simp] theorem Usart.drawByte_stop (n : Bool) (d : Byte) (u : Usart) : (u.drawByte n d).stop = u.stop := rfl
@[simp] theorem Usart.drawByte_tx (n : Bool) (d : Byte) (u : Usart) : (u.drawByte n d).tx = u.tx := rfl
@[simp] theorem Usart.drawByte_rx (n : Bool) (d : Byte) (u : Usart) : (u.drawByte n d).rx = u.rx := rfl
@[simp] theorem Usart.drawByte_rb (n : Bool) (d : Byte) (u : Usart) : (u.drawByte n d).rb = u.rb := rfl

/-! ### Usart.txAdvance -/

@[simp] theorem Usart.txAdvance_cr (u : Usart) : (u.txAdvance).cr = u.cr := rfl
@[simp] theorem Usart.txAdvance_tc (u : Usart) : (u.txAdvance).tc = u.tc := rfl
@[simp] theorem Usart.txAdvance_rxne (u : Usart) : (u.txAdvance).rxne = u.rxne := rfl
@[simp] theorem Usart.txAdvance_txInflight (u : Usart) : (u.txAdvance).txInflight = u.txInflight := rfl
@[simp] theorem Usart.txAdvance_drRx (u : Usart) : (u.txAdvance).drRx = u.drRx := rfl
@[simp] theorem Usart.txAdvance_brr (u : Usart) : (u.txAdvance).brr = u.brr := rfl
@[simp] theorem Usart.txAdvance_stop (u : Usart) : (u.txAdvance).stop = u.stop := rfl
@[simp] theorem Usart.txAdvance_tx (u : Usart) : (u.txAdvance).tx = { u.tx with pos := u.tx.pos + 1 } := rfl
@[simp] theorem Usart.txAdvance_rx (u : Usart) : (u.txAdvance).rx = u.rx := rfl
@[simp] theorem Usart.txAdvance_rb (u : Usart) : (u.txAdvance).rb = u.rb := rfl

/-! ### Usart.txComplete -/

@[simp] theorem Usart.txComplete_cr (u : Usart) : (u.txComplete).cr = crSet (crSet u.cr bitTxen false) bitTcie false := rfl
@[simp] theorem Usart.txComplete_tc (u : Usart) : (u.txComplete).tc = u.tc := rfl
@[simp] theorem Usart.txComplete_rxne (u : Usart) : (u.txComplete).rxne = u.rxne := rfl
@[simp] theorem Usart.txComplete_txInflight (u : Usart) : (u.txComplete).txInflight = u.txInflight := rfl
@[simp] theorem Usart.txComplete_drRx (u : Usart) : (u.txComplete).drRx = u.drRx := rfl
@[simp] theorem Usart.txComplete_brr (u : Usart) : (u.txComplete).brr = u.brr := rfl
@[simp] theorem Usart.txComplete_stop (u : Usart) : (u.txComplete).stop = u.stop := rfl
@[simp] theorem Usart.txComplete_tx (u : Usart) : (u.txComplete).tx = { u.tx with state := .idle } := rfl
@[simp] theorem Usart.txComplete_rx (u : Usart) : (u.txComplete).rx = u.rx := rfl
@[simp] theorem Usart.txComplete_rb (u : Usart) : (u.txComplete).rb = u.rb := rfl

/-! ### Usart.rxAdvance -/

@[simp] theorem Usart.rxAdvance_cr (u : Usart) : (u.rxAdvance).cr = u.cr := rfl
@[simp] theorem Usart.rxAdvance_tc (u : Usart) : (u.rxAdvance).tc = u.tc := rfl
@[simp] theorem Usart.rxAdvance_rxne (u : Usart) : (u.rxAdvance).rxne = u.rxne := rfl
@[simp] theorem Usart.rxAdvance_txInflight (u : Usart) : (u.rxAdvance).txInflight = u.txInflight := rfl
@[simp] theorem Usart.rxAdvance_drRx (u : Usart) : (u.rxAdvance).drRx = u.drRx := rfl
@[simp] theorem Usart.rxAdvance_brr (u : Usart) : (u.rxAdvance).brr = u.brr := rfl
@[simp] theorem Usart.rxAdvance_stop (u : Usart) : (u.rxAdvance).stop = u.stop := rfl
@[simp] theorem Usart.rxAdvance_tx (u : Usart) : (u.rxAdvance).tx = u.tx := rfl
@[simp] theorem Usart.rxAdvance_rx (u : Usart) : (u.rxAdvance).rx = { u.rx with pos := u.rx.pos + 1 } := rfl
@[simp] theorem Usart.rxAdvance_rb (u : Usart) : (u.rxAdvance).rb = u.rb := rfl

/-! ### Usart.rxComplete -/

@[simp] theorem Usart.rxComplete_cr (u : Usart) : (u.rxComplete).cr = crSet (crSet u.cr bitRxen false) bitRxneie false := rfl
@[simp] theorem Usart.rxComplete_tc (u : Usart) : (u.rxComplete).tc = u.tc := rfl
@[simp] theorem Usart.rxComplete_rxne (u : Usart) : (u.rxComplete).rxne = u.rxne := rfl
@[simp] theorem Usart.rxComplete_txInflight (u : Usart) : (u.rxComplete).txInflight = u.txInflight := rfl
@[simp] theorem Usart.rxComplete_drRx (u : Usart) : (u.rxComplete).drRx = u.drRx := rfl
@[simp] theorem Usart.rxComplete_brr (u : Usart) : (u.rxComplete).brr = u.brr := rfl
@[simp] theorem Usart.rxComplete_stop (u : Usart) : (u.rxComplete).stop = u.stop := rfl
@[simp] theorem Usart.rxComplete_tx (u : Usart) : (u.rxComplete).tx = u.tx := rfl
@[simp] theorem Usart.rxComplete_rx (u : Usart) : (u.rxComplete).rx = { u.rx with state := .idle } := rfl
@[simp] theorem Usart.rxComplete_rb (u : Usart) : (u.rxComplete).rb = u.rb := rfl

/-! ### Usart.disableRxAfterRecvB -/

@[simp] theorem Usart.disableRx_tc (fix : Bool) (u : Usart) : (u.disableRxAfterRecvB fix).tc = u.tc := by
  cases fix <;> rfl
@[simp] theorem Usart.disableRx_rxne (fix : Bool) (u : Usart) : (u.disableRxAfterRecvB fix).rxne = u.rxne := by
  cases fix <;> rfl
@[simp] theorem Usart.disableRx_txInflight (fix : Bool) (u : Usart) : (u.disableRxAfterRecvB fix).txInflight = u.txInflight := by
  cases fix <;> rfl
@[simp] theorem Usart.disableRx_drRx (fix : Bool) (u : Usart) : (u.disableRxAfterRecvB fix).drRx = u.drRx := by
  cases fix <;> rfl
@[simp] theorem Usart.disableRx_brr (fix : Bool) (u : Usart) : (u.disableRxAfterRecvB fix).brr = u.brr := by
  cases fix <;> rfl
@[simp] theorem Usart.disableRx_stop (fix : Bool) (u : Usart) : (u.disableRxAfterRecvB fix).stop = u.stop := by
  cases fix <;> rfl
@[simp] theorem Usart.disableRx_tx (fix : Bool) (u : Usart) : (u.disableRxAfterRecvB fix).tx = u.tx := by
  cases fix <;> rfl
@[simp] theorem Usart.disableRx_rx (fix : Bool) (u : Usart) : (u.disableRxAfterRecvB fix).rx = u.rx := by
  cases fix <;> rfl
@[simp] theorem Usart.disableRx_rb (fix : Bool) (u : Usart) : (u.disableRxAfterRecvB fix).rb = u.rb := by
  cases fix <;> rfl

end Sys2Proof.Machine
end

