-- ==== Sys2Proof/Laws/Ops.lean ====
section
/-! SUPPORT. What each shared operation can answer, said once: sequences, USART records, the data register, the bits
of CR, the frame of the LCD's step and of a callback. -/

namespace Sys2Proof.Machine

/-! ## Sequences -/

@[simp] theorem andThen_next {α β : Type} (a : α) (f : α → Res β) : andThen (.next a) f = f a := rfl

@[simp] theorem andThen_fault {α β : Type} (r : Fault) (f : α → Res β) : andThen (.fault r) f = .fault r := rfl

@[simp] theorem andThen_refused {α β : Type} (r : Refusal) (f : α → Res β) : andThen (.refused r) f = .refused r := rfl

/-- A sequence answers exactly when both parts do. -/
theorem andThen_eq_next {α β : Type} {o : Res α} {f : α → Res β} {b : β} :
    andThen o f = .next b ↔ ∃ a, o = .next a ∧ f a = .next b := by
  cases o <;> simp [andThen]

/-! ## USART records -/

theorem withUs_some {α : Type} {s : State} {i : Byte} {u : Usart} (h : usart? s i = some u) (f : Usart → Res α) :
    withUs s i f = f u := by
  simp [withUs, h]

/-- Going on with `us[i]` answers exactly when the block has it and the rest answers. -/
theorem withUs_eq_next {α : Type} {s : State} {i : Byte} {f : Usart → Res α} {b : α} :
    withUs s i f = .next b ↔ ∃ u, usart? s i = some u ∧ f u = .next b := by
  unfold withUs
  cases usart? s i <;> simp

theorem usart?_modUs_same (i : Byte) (f : Usart → Usart) (s : State) :
    usart? (modUs i f s) i = (usart? s i).map f := by
  simp [usart?]

theorem usart?_modUs_some {i : Byte} {s : State} {u : Usart} (f : Usart → Usart) (h : usart? s i = some u) :
    usart? (modUs i f s) i = some (f u) := by
  simp [usart?_modUs_same, h]

theorem usart?_modUs_other {i j : Byte} (f : Usart → Usart) (s : State) (h : j ≠ i) :
    usart? (modUs i f s) j = usart? s j := by
  have : i.toNat ≠ j.toNat := fun e => h (BitVec.eq_of_toNat_eq e.symm)
  simp [usart?, this]

@[simp] theorem usart?_emit (e : Event) (s : State) (j : Byte) : usart? (emit e s) j = usart? s j := rfl

@[simp] theorem usart?_ret (c : Word) (s : State) (j : Byte) : usart? (ret c s) j = usart? s j := rfl

@[simp] theorem usart?_setLcd (l : Lcd) (s : State) (j : Byte) : usart? (setLcd l s) j = usart? s j := rfl

@[simp] theorem usart?_setSch (c : Sched) (s : State) (j : Byte) : usart? (setSch c s) j = usart? s j := rfl

@[simp] theorem usart?_buf (m : Memory) (s : State) (j : Byte) : usart? { s with buf := m } j = usart? s j := rfl

@[simp] theorem length_modUs (i : Byte) (f : Usart → Usart) (s : State) :
    (modUs i f s).us.length = s.us.length := by
  simp

/-- A property of all records survives a change of one that keeps it. -/
theorem forall_modUs {P : Usart → Prop} {i : Byte} {f : Usart → Usart} {s : State} (h : ∀ u ∈ s.us, P u)
    (hf : ∀ u, usart? s i = some u → P u → P (f u)) : ∀ u ∈ (modUs i f s).us, P u := by
  intro u hu
  rw [modUs_us] at hu
  obtain ⟨k, hk, rfl⟩ := List.mem_iff_getElem.1 hu
  rw [List.getElem_modify]
  have hk' : k < s.us.length := by simpa using hk
  split_ifs with e
  · subst e
    exact hf _ (by simp [usart?, hk']) (h _ (List.getElem_mem _))
  · exact h _ (List.getElem_mem _)

theorem usart?_mem {s : State} {i : Byte} {u : Usart} (h : usart? s i = some u) : u ∈ s.us :=
  List.mem_of_getElem? h

/-! ## The data register -/

/-- A write of DR answers exactly with the transmitter enabled and free, and starts a frame (R162). -/
theorem writeDR_next {i b : Byte} {s t : State} :
    writeDR i b s = .next t ↔ ∃ u, usart? s i = some u ∧ crBit u.cr bitTxen = true ∧ u.txInflight = none ∧
      emit (.txFrame i b) (modUs i (Usart.startFrame b) s) = t := by
  unfold writeDR
  rw [withUs_eq_next]
  constructor
  · rintro ⟨u, hu, h⟩
    split_ifs at h with h1 h2
    exact ⟨u, hu, by simpa using h1, by simpa using h2, by simpa using h⟩
  · rintro ⟨u, hu, h1, h2, h3⟩
    exact ⟨u, hu, by simp [h1, h2, h3]⟩

/-- A read of DR answers for every USART of the block, and clears RXNE (R163). -/
theorem readDR_next {i : Byte} {s : State} {r : Byte × State} :
    readDR i s = .next r ↔
      ∃ u, usart? s i = some u ∧ (u.drRx, modUs i (fun u => { u with rxne := false }) s) = r := by
  unfold readDR
  simp [withUs_eq_next]

/-! ## Bits of CR -/

theorem crBit_crSet (cr : Half) (k j : Nat) (b : Bool) :
    crBit (crSet cr k b) j = if j = k ∧ k < 16 then b else crBit cr j := by
  unfold crBit crSet
  cases b
  · simp only [Bool.false_eq_true, if_false, BitVec.getLsbD_and, BitVec.getLsbD_not, BitVec.getLsbD_twoPow]
    by_cases hj : j < 16
    · by_cases e : j = k
      · subst e; simp [hj]
      · simp [hj, e, Ne.symm e]
    · have : cr.getLsbD j = false := BitVec.getLsbD_of_ge _ _ (by omega)
      simp [this]
  · simp only [if_true, BitVec.getLsbD_or, BitVec.getLsbD_twoPow]
    by_cases e : j = k
    · subst e
      by_cases hj : j < 16
      · simp [hj]
      · have : cr.getLsbD j = false := BitVec.getLsbD_of_ge _ _ (by omega)
        simp [hj, this]
    · simp [e, Ne.symm e]

/-- Other bits of CR keep their values. -/
theorem crBit_crSet_other (cr : Half) {k j : Nat} (b : Bool) (h : j ≠ k) : crBit (crSet cr k b) j = crBit cr j := by
  simp [crBit_crSet, h]

/-- Setting a field is an OR with its bit. -/
theorem crSet_true (cr : Half) (k : Nat) : crSet cr k true = cr ||| BitVec.twoPow 16 k := rfl

/-- Clearing a field is an AND with the complement of its bit. -/
theorem crSet_false (cr : Half) (k : Nat) : crSet cr k false = cr &&& ~~~(BitVec.twoPow 16 k) := rfl

/-! ## The LCD's step: what it leaves alone -/

/-- Everything but the LCD and the trace. -/
abbrev SameButLcd (s t : State) : Prop :=
  t.cfg = s.cfg ∧ t.port = s.port ∧ t.sch = s.sch ∧ t.st = s.st ∧ t.us = s.us ∧ t.buf = s.buf ∧
    t.accepts = s.accepts ∧ t.env = s.env ∧ t.draws = s.draws

theorem sendPhaseA_frame (v : Byte) (rs : Bool) (s : State) : SameButLcd s (sendPhaseA v rs s) := by
  simp [SameButLcd, sendPhaseA]

theorem sendPhaseB_frame (s : State) : SameButLcd s (sendPhaseB s) := by
  simp [SameButLcd, sendPhaseB, lowerStrobe]

theorem sendThen_frame (v : Byte) (rs : Bool) (f : Lcd → Lcd) (s : State) : SameButLcd s (sendThen v rs f s) := by
  unfold sendThen
  split
  · exact sendPhaseA_frame v rs s
  · split_ifs
    · exact sendPhaseB_frame s
    · exact sendPhaseB_frame s

theorem initStep_frame (s : State) : SameButLcd s (initStep s) := by
  unfold initStep
  split
  · simp [SameButLcd, powerOnStep]
  all_goals first
    | exact sendThen_frame _ _ _ _
    | simp [SameButLcd]

theorem clearStep_frame (s : State) : SameButLcd s (clearStep s) := by
  unfold clearStep
  split
  all_goals first
    | exact sendThen_frame _ _ _ _
    | simp [SameButLcd]

theorem writeStep_frame {s t : State} (h : writeStep s = .next t) : SameButLcd s t := by
  unfold writeStep at h
  split at h
  · cases h
    simp [SameButLcd, writeStartStep]
  · unfold setPositionStep at h
    split at h
    · cases h
      exact sendThen_frame _ _ _ _
    · cases h
  · unfold characterStep at h
    split_ifs at h
    · obtain ⟨c, -, hc⟩ := andThen_eq_next.1 h
      cases hc
      exact sendThen_frame _ _ _ _
    · cases h
      simp [SameButLcd]
  · cases h
    simp [SameButLcd]

/-- One invocation of the LCD runnable changes the LCD and the trace alone (R230). -/
theorem lcdRun_frame {s t : State} (h : lcdRun s = .next t) : SameButLcd s t := by
  unfold lcdRun at h
  split at h
  · cases h
    exact initStep_frame s
  · unfold requestStep at h
    split at h
    · exact writeStep_frame h
    · cases h
      exact clearStep_frame s
    · cases h
      simp [SameButLcd]
    · cases h
      simp [SameButLcd]
  · cases h
    simp [SameButLcd]

/-! ## Callbacks -/

/-- The three things an invocation can be (R286). -/
theorem invoke_cases {cb : Word} {s t : State} (h : invoke cb s = .next t) :
    t = s ∨ (cb = s.cfg.schTick ∧ t = schTick s) ∨ (cb = s.cfg.cbLcd ∧ lcdRun s = .next t) := by
  unfold invoke at h
  split_ifs at h with h0 h1 h2
  · left
    simpa using h.symm
  · right; left
    exact ⟨h1, by simpa using h.symm⟩
  · right; right
    exact ⟨h2, h⟩
  · left
    simpa using h.symm

/-- A callback changes the pending counter, the LCD and the trace alone (R286). -/
theorem invoke_frame {cb : Word} {s t : State} (h : invoke cb s = .next t) :
    t.cfg = s.cfg ∧ t.port = s.port ∧ t.st = s.st ∧ t.us = s.us ∧ t.buf = s.buf ∧ t.accepts = s.accepts ∧
      t.env = s.env ∧ t.draws = s.draws ∧ t.sch.elapsedMs = s.sch.elapsedMs ∧ t.sch.phase = s.sch.phase ∧
      t.sch.idx = s.sch.idx := by
  obtain rfl | ⟨-, rfl⟩ | ⟨-, h⟩ := invoke_cases h
  · simp
  · simp
  · obtain ⟨h1, h2, h3, h4, h5, h6, h7, h8, h9⟩ := lcdRun_frame h
    simp [h1, h2, h3, h4, h5, h6, h7, h8, h9]

/-- A completion callback is skipped or is an invocation after its event (R191, R192). -/
theorem completionCallback_cases {ev : Event} {cb : Word} {s t : State} (h : completionCallback ev cb s = .next t) :
    (cb = 0 ∧ t = s) ∨ (cb ≠ 0 ∧ invoke cb (emit ev s) = .next t) := by
  unfold completionCallback at h
  split_ifs at h with h0
  · left
    exact ⟨h0, by simpa using h.symm⟩
  · right
    exact ⟨h0, h⟩

end Sys2Proof.Machine
end

