-- ==== Sys2Proof/Laws/PerInstr.lean ====
section
/-! SUPPORT. Per-operation families. `TableRow`: the encoding of an operation is a word its own row of the opcode map
selects (30_encoding.md R103, R108). -/

namespace Sys2Proof.Laws

/-- The row of the map with `i`'s mnemonic selects `encode i`. -/
def TableRow.Statement (i : Instr) : Prop :=
  ∃ r ∈ opcodeRows, r.mnemonic = i.mnemonic ∧ encode i &&& r.mask = r.pattern

theorem TableRow.schInit : TableRow.Statement .schInit :=
  ⟨{ mnemonic := "SCH.INIT", pattern := 0x10000000, mask := 0xFFFFFFFF }, by simp [opcodeRows], rfl, by decide⟩

theorem TableRow.schStart : TableRow.Statement .schStart :=
  ⟨{ mnemonic := "SCH.START", pattern := 0x11000000, mask := 0xFFFFFFFF }, by simp [opcodeRows], rfl, by decide⟩

theorem TableRow.usInit : TableRow.Statement .usInit :=
  ⟨{ mnemonic := "US.INIT", pattern := 0x20000000, mask := 0xFFFFFFFF }, by simp [opcodeRows], rfl, by decide⟩

/-- The mask test of a row whose only operand is `inst`. -/
theorem inst_masked (u f : BitVec 4) (i : Byte) : wordOf u f i 0 0 &&& 0xFF00FFFF = wordOf u f 0 0 0 := by
  rw [mask_inst, wordOf_and, and_ones4, and_ones4]
  simp

theorem TableRow.usSendB (i : Byte) : TableRow.Statement (.usSendB i) :=
  ⟨{ mnemonic := "US.SENDB", pattern := 0x21000000, mask := 0xFF00FFFF }, by simp [opcodeRows], rfl,
    (inst_masked 0x2 1 i).trans (by decide)⟩

theorem TableRow.usRecvB (i : Byte) : TableRow.Statement (.usRecvB i) :=
  ⟨{ mnemonic := "US.RECVB", pattern := 0x22000000, mask := 0xFF00FFFF }, by simp [opcodeRows], rfl,
    (inst_masked 0x2 2 i).trans (by decide)⟩

theorem TableRow.usSendA (i : Byte) : TableRow.Statement (.usSendA i) :=
  ⟨{ mnemonic := "US.SENDA", pattern := 0x23000000, mask := 0xFF00FFFF }, by simp [opcodeRows], rfl,
    (inst_masked 0x2 3 i).trans (by decide)⟩

theorem TableRow.usRecvA (i : Byte) : TableRow.Statement (.usRecvA i) :=
  ⟨{ mnemonic := "US.RECVA", pattern := 0x24000000, mask := 0xFF00FFFF }, by simp [opcodeRows], rfl,
    (inst_masked 0x2 4 i).trans (by decide)⟩

theorem TableRow.lcdWrite (row col : Byte) : TableRow.Statement (.lcdWrite row col) := by
  refine ⟨{ mnemonic := "LCD.WRITE", pattern := 0x30000000, mask := 0xFFFF0000 }, by simp [opcodeRows], rfl, ?_⟩
  show wordOf 0x3 0 0 row col &&& 0xFFFF0000 = 0x30000000
  rw [mask_row_col, wordOf_and]
  simp only [BitVec.ofNat_eq_ofNat, BitVec.and_zero]
  decide

theorem TableRow.lcdClear : TableRow.Statement .lcdClear :=
  ⟨{ mnemonic := "LCD.CLEAR", pattern := 0x31000000, mask := 0xFFFFFFFF }, by simp [opcodeRows], rfl, by decide⟩

theorem TableRow.evTick : TableRow.Statement .evTick :=
  ⟨{ mnemonic := "EV.TICK", pattern := 0xE0000000, mask := 0xFFFFFFFF }, by simp [opcodeRows], rfl, by decide⟩

theorem TableRow.evSchStep : TableRow.Statement .evSchStep :=
  ⟨{ mnemonic := "EV.SCHSTEP", pattern := 0xE1000000, mask := 0xFFFFFFFF }, by simp [opcodeRows], rfl, by decide⟩

theorem TableRow.evTxDone (i : Byte) : TableRow.Statement (.evTxDone i) :=
  ⟨{ mnemonic := "EV.TXDONE", pattern := 0xE2000000, mask := 0xFF00FFFF }, by simp [opcodeRows], rfl,
    (inst_masked 0xE 2 i).trans (by decide)⟩

theorem TableRow.evRxByte (i d : Byte) : TableRow.Statement (.evRxByte i d) := by
  refine ⟨{ mnemonic := "EV.RXBYTE", pattern := 0xE3000000, mask := 0xFF00FF00 }, by simp [opcodeRows], rfl, ?_⟩
  show wordOf 0xE 3 i 0 d &&& 0xFF00FF00 = 0xE3000000
  rw [mask_data, wordOf_and]
  simp only [BitVec.ofNat_eq_ofNat, BitVec.and_zero]
  decide

theorem TableRow.evIrq (i : Byte) : TableRow.Statement (.evIrq i) :=
  ⟨{ mnemonic := "EV.IRQ", pattern := 0xE4000000, mask := 0xFF00FFFF }, by simp [opcodeRows], rfl,
    (inst_masked 0xE 4 i).trans (by decide)⟩

theorem TableRow.evLcdRun : TableRow.Statement .evLcdRun :=
  ⟨{ mnemonic := "EV.LCDRUN", pattern := 0xE5000000, mask := 0xFFFFFFFF }, by simp [opcodeRows], rfl, by decide⟩

theorem TableRow.evPoll (i : Byte) : TableRow.Statement (.evPoll i) :=
  ⟨{ mnemonic := "EV.POLL", pattern := 0xE6000000, mask := 0xFF00FFFF }, by simp [opcodeRows], rfl,
    (inst_masked 0xE 6 i).trans (by decide)⟩

end Sys2Proof.Laws
end

