-- ==== Sys2Proof/Laws/Usart.lean ====
section
/-! SUPPORT. What each USART operation can answer, said once (41_usart.md): one inversion lemma per operation, which the
proofs cite instead of unfolding it. -/

namespace Sys2Proof.Machine

/-! ## Changes of one record compose -/

@[simp] theorem modUs_modUs (i : Byte) (f g : Usart → Usart) (s : State) :
    modUs i f (modUs i g s) = modUs i (f ∘ g) s := by
  simp only [modUs, List.modify_modify_eq]

@[simp] theorem modUs_emit (i : Byte) (f : Usart → Usart) (e : Event) (s : State) :
    modUs i f (emit e s) = emit e (modUs i f s) := rfl

/-- A change of a record and a change of BUF commute. -/
theorem modUs_withBuf (i : Byte) (f : Usart → Usart) (m : Memory) (s : State) :
    modUs i f { s with buf := m } = { modUs i f s with buf := m } := rfl

/-! ## The checks -/

/-- Which of the checks ends a transfer command (R170). -/
theorem transferCheck_some {bad : Bool} {i : Byte} {slot : Usart → Slot} {s : State} {c : UsStatus} :
    transferCheck bad i slot s = some c ↔
      (bad = true ∧ c = .nullPointer) ∨
      (bad = false ∧ usart? s i = none ∧ c = .invalidNumber) ∨
      (bad = false ∧ ∃ u, usart? s i = some u ∧ (slot u).state = .busy ∧ c = .busy) := by
  unfold transferCheck
  cases bad
  · cases h : usart? s i with
    | none => simp [eq_comm]
    | some u => cases hs : (slot u).state <;> simp [hs, eq_comm]
  · simp [eq_comm]

/-- When a transfer command passes its checks (R170). -/
theorem transferCheck_none {bad : Bool} {i : Byte} {slot : Usart → Slot} {s : State} :
    transferCheck bad i slot s = none ↔
      bad = false ∧ ∃ u, usart? s i = some u ∧ (slot u).state = .idle := by
  unfold transferCheck
  cases bad
  · cases h : usart? s i with
    | none => simp
    | some u => cases hs : (slot u).state <;> simp [hs]
  · simp

/-- A checked accept operation is ended by its checks, held, or goes on (R170, R171). -/
theorem acceptOrHold_next {a : Accept} {b : State → Res State} {s t : State} (h : acceptOrHold a b s = .next t) :
    (s.cfg.acceptAtomic = true ∧ b s = .next t) ∨
      (s.cfg.acceptAtomic = false ∧ t = { s with accepts := s.accepts ++ [a] }) := by
  unfold acceptOrHold at h
  split_ifs at h with h1
  · exact .inl ⟨h1, h⟩
  · exact .inr ⟨by simpa using h1, by simpa using h.symm⟩

/-! ## Step B of the transfer commands -/

/-- US.SENDB past its checks answers exactly when the byte is readable and no frame is in flight (R173). -/
theorem sendBStepB_next {i : Byte} {a0 : Word} {s t : State} :
    sendBStepB i a0 s = .next t ↔ ∃ u, usart? s i = some u ∧ admits s.cfg a0 = true ∧ u.txInflight = none ∧
      t = ret (usCode .ok) (emit (.txFrame i (bufByte s.buf a0.toNat))
        (modUs i (Usart.endSendB ∘ Usart.startFrame (bufByte s.buf a0.toNat) ∘ Usart.beginSendB) s)) := by
  unfold sendBStepB
  simp only [withUs_eq_next, andThen_eq_next, load_next, writeDR_next]
  constructor
  · rintro ⟨u, hu, b, ⟨ha, rfl⟩, m, ⟨v, hv, -, h2, rfl⟩, h⟩
    rw [usart?_modUs_some _ hu] at hv
    cases hv
    exact ⟨u, hu, ha, h2, by simpa using h.symm⟩
  · rintro ⟨u, hu, ha, hf, rfl⟩
    refine ⟨u, hu, _, ⟨ha, rfl⟩, _, ⟨_, usart?_modUs_some _ hu, ?_, hf, rfl⟩, by simp⟩
    simp [crBit_crSet, bitTxen]

/-- US.SENDA past its checks answers exactly with a size, a readable first byte and no frame in flight (R182). -/
theorem sendAStepB_next {i : Byte} {a0 a1 a2 : Word} {s t : State} :
    sendAStepB i a0 a1 a2 s = .next t ↔
      ∃ u, usart? s i = some u ∧ a1 ≠ 0 ∧ admits s.cfg a0 = true ∧ u.txInflight = none ∧
      t = ret (usCode .ok) (emit (.txFrame i (bufByte s.buf a0.toNat))
        (modUs i (Usart.armSendA ∘ Usart.startFrame (bufByte s.buf a0.toNat) ∘ Usart.beginSendA a0 a1 a2) s)) := by
  unfold sendAStepB eagerAddr
  rw [withUs_eq_next]
  constructor
  · rintro ⟨u, hu, h⟩
    split_ifs at h with hz
    simp only [andThen_eq_next, load_next, writeDR_next] at h
    obtain ⟨b, ⟨ha, rfl⟩, m, ⟨v, hv, -, h2, rfl⟩, h⟩ := h
    rw [usart?_modUs_some _ hu] at hv
    cases hv
    refine ⟨u, hu, hz, by simpa using ha, h2, ?_⟩
    simpa using h.symm
  · rintro ⟨u, hu, hz, ha, hf, rfl⟩
    refine ⟨u, hu, ?_⟩
    rw [if_neg hz]
    simp only [andThen_eq_next, load_next, writeDR_next]
    have e : a0 + 0 = a0 := BitVec.add_zero a0
    rw [e]
    refine ⟨_, ⟨ha, rfl⟩, _, ⟨_, usart?_modUs_some _ hu, ?_, hf, rfl⟩, by simp⟩
    simp [crBit_crSet, bitTxen]

/-- US.RECVB past its checks answers for every USART of the block (R176). -/
theorem recvBStepB_next {i : Byte} {a0 : Word} {s t : State} :
    recvBStepB i a0 s = .next t ↔ ∃ u, usart? s i = some u ∧ t = modUs i (Usart.beginRecvB a0) s := by
  unfold recvBStepB
  rw [withUs_eq_next]
  constructor
  · rintro ⟨u, hu, h⟩
    exact ⟨u, hu, by simpa using h.symm⟩
  · rintro ⟨u, hu, rfl⟩
    exact ⟨u, hu, rfl⟩

/-- US.RECVA past its checks answers for every USART of the block (R186). -/
theorem recvAStepB_next {i : Byte} {a0 a1 a2 : Word} {s t : State} :
    recvAStepB i a0 a1 a2 s = .next t ↔
      ∃ u, usart? s i = some u ∧ t = ret (usCode .ok) (modUs i (Usart.beginRecvA a0 a1 a2) s) := by
  unfold recvAStepB
  rw [withUs_eq_next]
  constructor
  · rintro ⟨u, hu, h⟩
    exact ⟨u, hu, by simpa using h.symm⟩
  · rintro ⟨u, hu, rfl⟩
    exact ⟨u, hu, rfl⟩

/-! ## The transfer commands -/

/-- US.SENDB: ended by a check, held, or done (R173). -/
theorem execUsSendB_next {i : Byte} {s t : State} (h : execUsSendB i s = .next t) :
    (∃ c, t = ret (usCode c) s) ∨
      (s.cfg.acceptAtomic = false ∧ t = { s with accepts := s.accepts ++ [.sendB i s.port.a0] }) ∨
      (s.cfg.acceptAtomic = true ∧ sendBStepB i s.port.a0 s = .next t) := by
  unfold execUsSendB byteAddr at h
  split at h
  · exact .inl ⟨_, by simpa using h.symm⟩
  · rcases acceptOrHold_next h with h | h
    · exact .inr (.inr h)
    · exact .inr (.inl h)

/-- US.RECVB: ended by a check, held, or begun (R176). -/
theorem execUsRecvB_next {i : Byte} {s t : State} (h : execUsRecvB i s = .next t) :
    (∃ c, t = ret (usCode c) s) ∨
      (s.cfg.acceptAtomic = false ∧ t = { s with accepts := s.accepts ++ [.recvB i s.port.a0] }) ∨
      (s.cfg.acceptAtomic = true ∧ recvBStepB i s.port.a0 s = .next t) := by
  unfold execUsRecvB byteAddr at h
  split at h
  · exact .inl ⟨_, by simpa using h.symm⟩
  · rcases acceptOrHold_next h with h | h
    · exact .inr (.inr h)
    · exact .inr (.inl h)

/-- US.SENDA: ended by a check, held, or done (R182). -/
theorem execUsSendA_next {i : Byte} {s t : State} (h : execUsSendA i s = .next t) :
    (∃ c, t = ret (usCode c) s) ∨
      (s.cfg.acceptAtomic = false ∧
        t = { s with accepts := s.accepts ++ [.sendA i s.port.a0 s.port.a1 s.port.a2] }) ∨
      (s.cfg.acceptAtomic = true ∧ sendAStepB i s.port.a0 s.port.a1 s.port.a2 s = .next t) := by
  unfold execUsSendA at h
  split at h
  · exact .inl ⟨_, by simpa using h.symm⟩
  · rcases acceptOrHold_next h with h | h
    · exact .inr (.inr h)
    · exact .inr (.inl h)

/-- US.RECVA: ended by a check, held, or done (R186). -/
theorem execUsRecvA_next {i : Byte} {s t : State} (h : execUsRecvA i s = .next t) :
    (∃ c, t = ret (usCode c) s) ∨
      (s.cfg.acceptAtomic = false ∧
        t = { s with accepts := s.accepts ++ [.recvA i s.port.a0 s.port.a1 s.port.a2] }) ∨
      (s.cfg.acceptAtomic = true ∧ recvAStepB i s.port.a0 s.port.a1 s.port.a2 s = .next t) := by
  unfold execUsRecvA at h
  split at h
  · exact .inl ⟨_, by simpa using h.symm⟩
  · rcases acceptOrHold_next h with h | h
    · exact .inr (.inr h)
    · exact .inr (.inl h)

/-! ## Line events and the spin -/

/-- EV.TXDONE answers exactly with a frame in flight (R195). -/
theorem execEvTxDone_next {i : Byte} {s t : State} :
    execEvTxDone i s = .next t ↔ ∃ u, usart? s i = some u ∧ u.txInflight ≠ none ∧ t = modUs i Usart.endFrame s := by
  unfold execEvTxDone
  rw [withUs_eq_next]
  constructor
  · rintro ⟨u, hu, h⟩
    split_ifs at h with h1
    exact ⟨u, hu, h1, by simpa using h.symm⟩
  · rintro ⟨u, hu, h1, rfl⟩
    exact ⟨u, hu, by simp [h1]⟩

/-- EV.RXBYTE: lost, loaded or drawn (R196). -/
theorem execEvRxByte_next {i d : Byte} {s t : State} (h : execEvRxByte i d s = .next t) :
    ∃ u, usart? s i = some u ∧
      ((crBit u.cr bitRxen = false ∧ t = s) ∨
        (crBit u.cr bitRxen = true ∧ u.rxne = false ∧ t = modUs i (Usart.takeByte d) s) ∨
        (crBit u.cr bitRxen = true ∧ u.rxne = true ∧
          t = { modUs i (Usart.drawByte (Config.rxDraw s.draws) d) s with draws := s.draws + 1 })) := by
  unfold execEvRxByte at h
  obtain ⟨u, hu, h⟩ := withUs_eq_next.1 h
  refine ⟨u, hu, ?_⟩
  split_ifs at h with h1 h2
  · exact .inl ⟨h1, by simpa using h.symm⟩
  · exact .inr (.inl ⟨by simpa using h1, h2, by simpa using h.symm⟩)
  · exact .inr (.inr ⟨by simpa using h1, by simpa using h2, by simpa using h.symm⟩)

/-- The record a blocking receive leaves at its end (R178). -/
abbrev recvBEnd (fix : Bool) : Usart → Usart := Usart.endRecvB fix ∘ fun u => { u with rxne := false }

/-- `finish` answers exactly where the byte can be stored (R178). -/
theorem finishRecvB_next {i : Byte} {c : UsStatus} {s t : State} :
    finishRecvB i c s = .next t ↔ ∃ u, usart? s i = some u ∧ admits s.cfg u.rb.buf = true ∧
      t = ret (usCode c) { modUs i (recvBEnd s.cfg.recvbFix) s with
        buf := Memory.write s.buf u.rb.buf.toNat u.drRx } := by
  unfold finishRecvB rbAddr
  simp only [withUs_eq_next, andThen_eq_next, readDR_next, store_next]
  constructor
  · rintro ⟨u, hu, r, ⟨v, hv, rfl⟩, m, ⟨ha, rfl⟩, h⟩
    rw [hu] at hv
    cases hv
    refine ⟨u, hu, ha, ?_⟩
    rw [modUs_withBuf, modUs_modUs] at h
    simpa using h.symm
  · rintro ⟨u, hu, ha, rfl⟩
    refine ⟨u, hu, _, ⟨u, hu, rfl⟩, _, ⟨ha, rfl⟩, ?_⟩
    rw [modUs_withBuf, modUs_modUs]
    rfl

/-- EV.POLL: TimeOut, Ok, or one more spin (R177). -/
theorem execEvPoll_next {i : Byte} {s t : State} (h : execEvPoll i s = .next t) :
    ∃ u, usart? s i = some u ∧ u.rb.phase = .spinning ∧
      ((u.rb.spin = s.cfg.rxBudget ∧ finishRecvB i .timeOut s = .next t) ∨
        (u.rb.spin ≠ s.cfg.rxBudget ∧ u.rxne = true ∧ finishRecvB i .ok s = .next t) ∨
        (u.rb.spin ≠ s.cfg.rxBudget ∧ u.rxne = false ∧ t = modUs i Usart.spinOnce s)) := by
  unfold execEvPoll at h
  obtain ⟨u, hu, h⟩ := withUs_eq_next.1 h
  refine ⟨u, hu, ?_⟩
  split_ifs at h with h1 h2 h3
  · exact ⟨by simpa using h1, .inl ⟨h2, h⟩⟩
  · exact ⟨by simpa using h1, .inr (.inl ⟨h2, h3, h⟩)⟩
  · exact ⟨by simpa using h1, .inr (.inr ⟨h2, by simpa using h3, by simpa using h.symm⟩)⟩

/-! ## The handler -/

/-- The Tx branch: one byte pushed, or completion (R191). -/
theorem txBranch_next {i : Byte} {s t : State} (h : txBranch i s = .next t) :
    ∃ u, usart? s i = some u ∧
      ((u.tx.pos < u.tx.size ∧ admits s.cfg (u.tx.buf + u.tx.pos) = true ∧ u.txInflight = none ∧
          t = emit (.txFrame i (bufByte s.buf (u.tx.buf + u.tx.pos).toNat))
            (modUs i (Usart.txAdvance ∘ Usart.startFrame (bufByte s.buf (u.tx.buf + u.tx.pos).toNat)) s)) ∨
        (¬ u.tx.pos < u.tx.size ∧
          completionCallback (.txCb i u.tx.cb) u.tx.cb (modUs i Usart.txComplete s) = .next t)) := by
  unfold txBranch txAddr at h
  obtain ⟨u, hu, h⟩ := withUs_eq_next.1 h
  refine ⟨u, hu, ?_⟩
  split_ifs at h with h1
  · left
    simp only [andThen_eq_next, load_next, writeDR_next] at h
    obtain ⟨b, ⟨ha, rfl⟩, m, ⟨v, hv, -, h2, rfl⟩, h⟩ := h
    rw [hu] at hv
    cases hv
    exact ⟨h1, ha, h2, by simpa using h.symm⟩
  · exact .inr ⟨h1, h⟩

/-- The record after a byte is stored by the handler (R192). -/
abbrev rxStored : Usart → Usart := Usart.rxAdvance ∘ fun u => { u with rxne := false }

/-- The Rx branch: one byte stored, one byte stored and completion, or completion alone (R192). -/
theorem rxBranch_next {i : Byte} {s t : State} (h : rxBranch i s = .next t) :
    ∃ u, usart? s i = some u ∧
      ((u.rx.pos < u.rx.size ∧ admits s.cfg (u.rx.buf + u.rx.pos) = true ∧
          ¬ (s.cfg.rxCompleteEager = true ∧ u.rx.pos + 1 = u.rx.size) ∧
          t = { modUs i rxStored s with buf := Memory.write s.buf (u.rx.buf + u.rx.pos).toNat u.drRx }) ∨
        (u.rx.pos < u.rx.size ∧ admits s.cfg (u.rx.buf + u.rx.pos) = true ∧
          (s.cfg.rxCompleteEager = true ∧ u.rx.pos + 1 = u.rx.size) ∧
          completeRx i u.rx.cb
            { modUs i rxStored s with buf := Memory.write s.buf (u.rx.buf + u.rx.pos).toNat u.drRx } = .next t) ∨
        (¬ u.rx.pos < u.rx.size ∧ completeRx i u.rx.cb s = .next t)) := by
  unfold rxBranch rxAddr at h
  obtain ⟨u, hu, h⟩ := withUs_eq_next.1 h
  refine ⟨u, hu, ?_⟩
  by_cases h1 : u.rx.pos < u.rx.size
  · rw [if_pos h1] at h
    simp only [andThen_eq_next, readDR_next, store_next] at h
    obtain ⟨r, ⟨v, hv, rfl⟩, m, ⟨ha, rfl⟩, h⟩ := h
    rw [hu] at hv
    cases hv
    rw [modUs_withBuf, modUs_modUs] at h
    split_ifs at h with h2
    · exact .inr (.inl ⟨h1, ha, h2, h⟩)
    · exact .inl ⟨h1, ha, h2, by simpa using h.symm⟩
  · rw [if_neg h1] at h
    exact .inr (.inr ⟨h1, h⟩)

/-- The first half of a handler run: the Tx branch, or nothing (R190). -/
theorem irqTx_next {i : Byte} {s t : State} (h : irqTx i s = .next t) :
    ∃ u, usart? s i = some u ∧
      ((gated s.cfg.irqGate u.tc (crBit u.cr bitTcie) = true ∧ txBranch i s = .next t) ∨
        (gated s.cfg.irqGate u.tc (crBit u.cr bitTcie) = false ∧ t = s)) := by
  unfold irqTx at h
  obtain ⟨u, hu, h⟩ := withUs_eq_next.1 h
  refine ⟨u, hu, ?_⟩
  split_ifs at h with h1
  · exact .inl ⟨h1, h⟩
  · exact .inr ⟨by simpa using h1, by simpa using h.symm⟩

/-- The second half of a handler run: the Rx branch, or nothing (R190). -/
theorem irqRx_next {i : Byte} {s t : State} (h : irqRx i s = .next t) :
    ∃ u, usart? s i = some u ∧
      ((gated s.cfg.irqGate u.rxne (crBit u.cr bitRxneie) = true ∧ rxBranch i s = .next t) ∨
        (gated s.cfg.irqGate u.rxne (crBit u.cr bitRxneie) = false ∧ t = s)) := by
  unfold irqRx at h
  obtain ⟨u, hu, h⟩ := withUs_eq_next.1 h
  refine ⟨u, hu, ?_⟩
  split_ifs at h with h1
  · exact .inl ⟨h1, h⟩
  · exact .inr ⟨by simpa using h1, by simpa using h.symm⟩

/-- A handler run answers exactly when it is enabled and both halves answer (R190). -/
theorem execEvIrq_next {i : Byte} {s t : State} :
    execEvIrq i s = .next t ↔ irqPending s i = true ∧ ∃ m, irqTx i s = .next m ∧ irqRx i m = .next t := by
  unfold execEvIrq
  constructor
  · intro h
    obtain ⟨u, -, h⟩ := withUs_eq_next.1 h
    split_ifs at h with h1
    exact ⟨h1, andThen_eq_next.1 h⟩
  · rintro ⟨h1, h⟩
    have : ∃ u, usart? s i = some u := by
      unfold irqPending at h1
      unfold usart?
      cases hu : s.us[i.toNat]? with
      | none => simp [hu] at h1
      | some u => exact ⟨u, rfl⟩
    obtain ⟨u, hu⟩ := this
    rw [withUs_some hu, if_pos h1]
    exact andThen_eq_next.2 h

end Sys2Proof.Machine
end

