-- ==== Sys2Proof/Laws/Scheduler.lean ====
section
/-! SUPPORT. What each scheduler operation and each LCD request can answer, said once (40_scheduler.md, 42_lcd.md). -/

namespace Sys2Proof.Machine

/-! ## Scheduler -/

/-- R133. -/
theorem execSchStart_next {s t : State} (h : execSchStart s = .next t) :
    s.sch.phase = .stopped ∧ t = setSch { s.sch with phase := .poll, idx := 0 } (stStart s.cfg.stClkSrc s) := by
  unfold execSchStart at h
  split_ifs at h with h1
  exact ⟨h1, by simpa using h.symm⟩

/-- R138: the row's callback if it is dispatched, then the next index. -/
theorem rowStep_next {r : Runnable} {s t : State} (h : rowStep r s = .next t) :
    ∃ m, (m = s ∨ invoke r.cb (emit (.run s.sch.idx) s) = .next m) ∧
      t = setSch { m.sch with idx := s.sch.idx + 1 } m := by
  unfold rowStep at h
  split_ifs at h
  obtain ⟨m, hm, h⟩ := andThen_eq_next.1 h
  refine ⟨m, ?_, by simpa using h.symm⟩
  unfold dispatchRow at hm
  split_ifs at hm
  · exact .inr hm
  · exact .inl (by simpa using hm.symm)

/-- R137 to R139. -/
theorem execEvSchStep_next {s t : State} (h : execEvSchStep s = .next t) :
    (s.sch.phase = .poll ∧ t = pollStep s) ∨
      (s.sch.phase = .pass ∧ ((∃ r, s.cfg.run[s.sch.idx]? = some r ∧ rowStep r s = .next t) ∨
        (s.sch.idx = s.cfg.nRun ∧ t = passEnd s))) := by
  unfold execEvSchStep at h
  split at h
  · cases h
  · exact .inl ⟨‹_›, by simpa using h.symm⟩
  · refine .inr ⟨‹_›, ?_⟩
    split at h
    · exact .inl ⟨_, ‹_›, h⟩
    · split_ifs at h with h1
      exact .inr ⟨h1, by simpa using h.symm⟩

/-- R135: the callbacks of the three slots, as they were registered before the tick. -/
theorem execEvTick_next {s t : State} (h : execEvTick s = .next t) :
    s.st.running = true ∧
      ∃ m n, invoke s.st.cb0 s = .next m ∧ invoke s.st.cb1 m = .next n ∧ invoke s.st.cb2 n = .next t := by
  unfold execEvTick tickCallbacks at h
  split_ifs at h with h1
  obtain ⟨m, hm, h⟩ := andThen_eq_next.1 h
  obtain ⟨n, hn, h⟩ := andThen_eq_next.1 h
  exact ⟨h1, m, n, hm, hn, h⟩

/-! ## Draining -/

/-- A row with a callback that is opaque or null is examined in a step that moves the index on and leaves the rest of
the scheduler alone (R138, R286). -/
theorem rowStep_opaque {r : Runnable} {s : State} (hp : 0 < r.periodMs) (h1 : r.cb ≠ s.cfg.schTick)
    (h2 : r.cb ≠ s.cfg.cbLcd) :
    ∃ t, rowStep r s = .next t ∧ t.cfg = s.cfg ∧ t.sch = { s.sch with idx := s.sch.idx + 1 } := by
  have hi : ∀ m : State, m.cfg = s.cfg → invoke r.cb m = .next m := by
    intro m hm
    unfold invoke
    rw [hm, if_neg h1, if_neg h2, ite_self]
  unfold rowStep dispatchRow
  rw [if_neg (by omega)]
  split_ifs
  · rw [hi (emit (.run s.sch.idx) s) rfl]
    exact ⟨_, rfl, rfl, rfl⟩
  · exact ⟨_, rfl, rfl, rfl⟩

/-- R109: over rows with opaque callbacks `drain` is `drainLength` words, each of them `ev.schstep`. -/
theorem scriptDrain_length (n : Nat) : ∀ s : State, s.sch.idx ≤ s.cfg.nRun →
    (∀ r ∈ s.cfg.run, 0 < r.periodMs ∧ r.cb ≠ s.cfg.schTick ∧ r.cb ≠ s.cfg.cbLcd) → drainLength s = some n →
    scriptDrain n s = some (List.replicate n .evSchStep) := by
  induction n with
  | zero =>
    intro s _ _ hn
    have hd : drained s = true := by
      unfold drainLength at hn
      split at hn
      · cases hn
      · rename_i hph
        have h0 : s.sch.pending.toNat = 0 := by simpa using hn
        have h1 : s.sch.pending = 0 := BitVec.eq_of_toNat_eq (by simpa using h0)
        simp [drained, hph, h1]
      · simp at hn
    unfold scriptDrain
    rw [if_pos hd]
    rfl
  | succ n ih =>
    intro s hi hr hn
    have go : ∀ t : State, drained s = false → execEvSchStep s = .next t → t.cfg = s.cfg → t.sch.idx ≤ s.cfg.nRun →
        drainLength t = some n → scriptDrain (n + 1) s = some (List.replicate (n + 1) .evSchStep) := by
      intro t hd he hc hti hl
      unfold scriptDrain
      rw [hd]
      simp only [Bool.false_eq_true, if_false, he]
      rw [ih t (by rw [hc]; exact hti) (by rw [hc]; exact hr) hl]
      rfl
    unfold drainLength at hn
    split at hn
    · cases hn
    · rename_i hph
      have hp : s.sch.pending ≠ 0 := by
        intro h
        simp [h] at hn
      have hpn : 0 < s.sch.pending.toNat := by
        rcases Nat.eq_zero_or_pos s.sch.pending.toNat with h | h
        · exact absurd (BitVec.eq_of_toNat_eq (by simpa using h)) hp
        · exact h
      have hps : pollStep s = setSch { s.sch with pending := s.sch.pending - 1, idx := 0, phase := .pass } s := if_pos hp
      refine go (pollStep s) (by unfold drained; rw [decide_eq_false hp, Bool.and_false])
        (by simp [execEvSchStep, hph]) (by rw [hps]; rfl) (by rw [hps]; exact Nat.zero_le _) ?_
      have hsub : (s.sch.pending - 1).toNat = s.sch.pending.toNat - 1 := by bv_omega
      obtain ⟨p, hp'⟩ : ∃ p, s.sch.pending.toNat = p + 1 := ⟨s.sch.pending.toNat - 1, by omega⟩
      simp only [Option.some.injEq, hp', Nat.add_mul] at hn
      simp only [hps, drainLength, setSch, hsub, hp', Option.some.injEq, Nat.add_sub_cancel]
      omega
    · rename_i hph
      have hd : drained s = false := by simp [drained, hph]
      rcases Nat.lt_or_ge s.sch.idx s.cfg.nRun with hlt | hge
      · have hget : s.cfg.run[s.sch.idx]? = some s.cfg.run[s.sch.idx] := List.getElem?_eq_getElem hlt
        obtain ⟨h1, h2, h3⟩ := hr _ (List.mem_of_getElem? hget)
        obtain ⟨t, ht, hc, hs⟩ := rowStep_opaque h1 h2 h3
        refine go t hd (by simp only [execEvSchStep, hph, hget]; exact ht) hc (by rw [hs]; exact hlt) ?_
        simp only [drainLength, hs, hph, hc, Option.some.injEq] at hn ⊢
        omega
      · have hidx : s.sch.idx = s.cfg.nRun := Nat.le_antisymm hi hge
        have hget : s.cfg.run[s.sch.idx]? = none := List.getElem?_eq_none hge
        refine go (passEnd s) hd (by simp [execEvSchStep, hph, hidx]) rfl hi ?_
        simp only [Option.some.injEq, hidx] at hn
        simp only [drainLength, passEnd, setSch, Option.some.injEq]
        omega

/-! ## LCD requests -/

/-- R246, R249: a return without effect, a step B left pending, or the slot taken. -/
theorem execLcdWrite_next {r c : Byte} {s t : State} (h : execLcdWrite r c s = .next t) :
    (∃ k, t = ret k s) ∨
      (s.cfg.acceptAtomic = false ∧ lcdFree s = true ∧ r.toNat < s.cfg.lcdRows ∧
        t = { s with accepts := s.accepts ++ [.lcdWrite r c s.port.a0 s.port.a1] }) ∨
      (s.cfg.acceptAtomic = true ∧ lcdFree s = true ∧ r.toNat < s.cfg.lcdRows ∧
        lcdWriteB r c s.port.a0 s.port.a1 s = .next t) := by
  unfold execLcdWrite at h
  split_ifs at h with h1 h2 h3
  · exact .inl ⟨_, by simpa using h.symm⟩
  · exact .inl ⟨_, by simpa using h.symm⟩
  · rcases acceptOrHold_next h with h | h
    · exact .inr (.inr ⟨h.1, h3, by omega, h.2⟩)
    · exact .inr (.inl ⟨h.1, h3, by omega, h.2⟩)
  · exact .inl ⟨_, by simpa using h.symm⟩

/-- R248, R249. -/
theorem execLcdClear_next {s t : State} (h : execLcdClear s = .next t) :
    (∃ k, t = ret k s) ∨
      (s.cfg.acceptAtomic = false ∧ lcdFree s = true ∧ t = { s with accepts := s.accepts ++ [.lcdClear] }) ∨
      (s.cfg.acceptAtomic = true ∧ lcdFree s = true ∧ lcdClearB s = .next t) := by
  unfold execLcdClear at h
  split_ifs at h with h3
  · rcases acceptOrHold_next h with h | h
    · exact .inr (.inr ⟨h.1, h3, h.2⟩)
    · exact .inr (.inl ⟨h.1, h3, h.2⟩)
  · exact .inl ⟨_, by simpa using h.symm⟩

/-! ## Callbacks -/

/-- What an invocation of an identifier other than SCHTICK, or other than CB_LCD, leaves alone (R286). -/
theorem invoke_keeps {cb : Word} {s t : State} (h : invoke cb s = .next t) :
    (cb ≠ s.cfg.schTick → t.sch = s.sch) ∧ (cb ≠ s.cfg.cbLcd → t.lcd = s.lcd) := by
  obtain rfl | ⟨h1, rfl⟩ | ⟨h1, h2⟩ := invoke_cases h
  · exact ⟨fun _ => rfl, fun _ => rfl⟩
  · exact ⟨fun hn => absurd h1 hn, fun _ => rfl⟩
  · exact ⟨fun _ => (lcdRun_frame h2).2.2.1, fun hn => absurd h1 hn⟩

end Sys2Proof.Machine
end

