-- ==== Sys2Proof/Tests/Slice0.lean ====
section
/-! SUPPORT. Tests from the spec's own vectors (95_test_vectors.md; the vector stands in each comment), the encodings
written out bit by bit, the smoke test of well-formedness, and for each statement with hypotheses a state that meets
them. No byte whose value is free is read. -/

namespace Sys2Proof.Tests

open Sys2Proof Sys2Proof.Machine

/-! ## Small states -/

/-- The state an outcome gives, if it gives one. -/
def after {α : Type} : Res α → Option α
  | .next a => some a
  | .fault _ => none
  | .refused _ => none

/-- Reset with `A0 = a0, A1 = a1, A2 = a2`, `R0 = 9`, every `DR_RX` 0x77 and `BUF[0x2000..0x2002] = 0x41, 0x42,
0x43`. -/
def portState (a0 a1 a2 : Word) : State :=
  State.resetWith Config.default { a0 := a0, a1 := a1, a2 := a2, r0 := 9 } (fun _ => 0x77)
    [(0x2000, 0x41), (0x2001, 0x42), (0x2002, 0x43)]

/-- A transfer of three bytes at 0x2000 with callback 7 on the port. -/
def base : State := portState 0x2000 3 7

/-- `base` with USART 0 changed. -/
def withU (f : Usart → Usart) : State := modUs 0 f base

/-- `base` with another configuration. -/
def withC (f : Config → Config) : State := { base with cfg := f base.cfg }

/-- `base` with another LCD unit. -/
def withL (f : Lcd → Lcd) : State := { base with lcd := f base.lcd }

/-- USART 0 of an outcome. -/
def u0 (o : Res State) : Option Usart := (after o).bind (fun s => usart? s 0)

/-- The trace of an outcome. -/
def trace (o : Res State) : Option (List Event) := (after o).map (fun s => s.trace)

/-- `R0` of an outcome. -/
def r0 (o : Res State) : Option Word := (after o).map (fun s => s.port.r0)

/-- An operational LCD with request `r`. -/
def lcdReady (r : LcdReq) : State := withL (fun l => { l with top := .operational, init := .endInit, req := r })

/-- A write request of `n` characters at 0x2000, row 2, column 5. -/
def writeOf (n : Word) : LcdReq :=
  { ptr := 0x2000, len := n, row := 2, col := 5, pos := 0, state := .busy, type := .write }

/-- A USART with a received byte, its receiver and receive interrupt enabled, and a slot of size `n` at position
`p`. -/
def rxReady (p n : Word) (u : Usart) : Usart :=
  { u with rxne := true, cr := 0x0024, rx := { buf := 0x3000, pos := p, size := n, cb := 9, state := .busy } }

/-- A USART whose last frame has ended, with its transmitter and transmit interrupt enabled, and a slot of size `n` at
position `p`. -/
def txReady (p n : Word) (u : Usart) : Usart :=
  { u with cr := 0x0048, tx := { buf := 0x2000, pos := p, size := n, cb := 7, state := .busy } }

/-- A spinning USART. -/
def spinReady (k : Word) (flag : Bool) (u : Usart) : Usart :=
  { u with cr := 0x0004, rxne := flag, rx := { u.rx with state := .busy },
           rb := { phase := .spinning, spin := k, buf := 0x3000 } }

/-! ## Well-formedness -/

/-- R106: an event word may not name USART 3 of three. -/
theorem test_wf_event_inst :
    Instr.wf 3 (.evTxDone 3) = false ∧ Instr.wf 3 (.evRxByte 3 0x41) = false ∧ Instr.wf 3 (.evIrq 3) = false ∧
      Instr.wf 3 (.evPoll 3) = false := by decide

/-- R110: USART 2 of three is named; a command may name any. -/
theorem test_wf_inst_in_range :
    Instr.wf 3 (.evTxDone 2) = true ∧ Instr.wf 3 (.evRxByte 2 0) = true ∧ Instr.wf 3 (.evIrq 2) = true ∧
      Instr.wf 3 (.evPoll 2) = true ∧ Instr.wf 3 (.usSendB 255) = true := by decide

/-! ## Encodings, written out from R101 to R103: unit, fn, inst, row, col or data -/

theorem test_decode_schInit : decode 0b0001_0000_00000000_00000000_00000000#32 = .ok .schInit := by decide
theorem test_decode_schStart : decode 0b0001_0001_00000000_00000000_00000000#32 = .ok .schStart := by decide
theorem test_decode_usInit : decode 0b0010_0000_00000000_00000000_00000000#32 = .ok .usInit := by decide
theorem test_decode_usSendB : decode 0b0010_0001_00000010_00000000_00000000#32 = .ok (.usSendB 2) := by decide
theorem test_decode_usRecvB : decode 0b0010_0010_00000001_00000000_00000000#32 = .ok (.usRecvB 1) := by decide
theorem test_decode_usSendA : decode 0b0010_0011_10000001_00000000_00000000#32 = .ok (.usSendA 129) := by decide
theorem test_decode_usRecvA : decode 0b0010_0100_11111111_00000000_00000000#32 = .ok (.usRecvA 255) := by decide
theorem test_decode_lcdWrite : decode 0b0011_0000_00000000_00000010_00000101#32 = .ok (.lcdWrite 2 5) := by decide
theorem test_decode_lcdClear : decode 0b0011_0001_00000000_00000000_00000000#32 = .ok .lcdClear := by decide
theorem test_decode_evTick : decode 0b1110_0000_00000000_00000000_00000000#32 = .ok .evTick := by decide
theorem test_decode_evSchStep : decode 0b1110_0001_00000000_00000000_00000000#32 = .ok .evSchStep := by decide
theorem test_decode_evTxDone : decode 0b1110_0010_00000001_00000000_00000000#32 = .ok (.evTxDone 1) := by decide
theorem test_decode_evRxByte : decode 0b1110_0011_00000001_00000000_01000001#32 = .ok (.evRxByte 1 0x41) := by decide
theorem test_decode_evIrq : decode 0b1110_0100_00000010_00000000_00000000#32 = .ok (.evIrq 2) := by decide
theorem test_decode_evLcdRun : decode 0b1110_0101_00000000_00000000_00000000#32 = .ok .evLcdRun := by decide
theorem test_decode_evPoll : decode 0b1110_0110_00000010_00000000_00000000#32 = .ok (.evPoll 2) := by decide

/-- R106: each kind of illegal word, with the reason. -/
theorem test_decode_illegal :
    decode 0x00000000 = .error (.unknownUnit 0) ∧ decode 0xF0000000 = .error (.unknownUnit 0xF) ∧
    decode 0x12000000 = .error (.unknownFunction 1 2) ∧ decode 0x25000000 = .error (.unknownFunction 2 5) ∧
    decode 0x32000000 = .error (.unknownFunction 3 2) ∧ decode 0xE7000000 = .error (.unknownFunction 0xE 7) ∧
    decode 0x30010000 = .error (.nonzeroMbz 0x30010000) ∧ decode 0xE3000141 = .error (.nonzeroMbz 0xE3000141) := by
  decide

/-- The host's reading of a table row: US.SENDB with its operand zero. -/
theorem test_decodeTableWord : decodeTableWord 32 0x21000000 = some (.usSendB 0) := by decide

/-- The very next step runs a placed word: SCH.START from reset. -/
theorem test_withFetchWord :
    step (State.reset.withFetchWord 32 0x11000000) = exec .schStart State.reset := by rfl

/-! ## Scheduler -/

/-- P1 line 1. -/
theorem test_schInit :
    (after (exec .schInit base)).map (fun s => (s.st.periodMs, s.st.cb0, s.st.cb1, s.st.cb2, s.port.r0)) =
      some (10, Config.default.schTick, 0, 0, 0) := by decide

/-- P1 line 2, and V-SCH-6: a second SCH.START is refused. -/
theorem test_schStart :
    (after (exec .schStart base)).map (fun s => (s.st.running, s.sch.phase, s.port.r0)) = some (true, .poll, 9) ∧
      after (andThen (exec .schStart base) (exec .schStart)) = none := by decide

/-- V-SCH-4: the pending counter wraps. -/
theorem test_evTick_wraps :
    (after (exec .evTick { base with
      st := { base.st with running := true, cb0 := Config.default.schTick }
      sch := { base.sch with pending := 0xFFFFFFFF } })).map (fun s => s.sch.pending) = some 0 := by decide

/-- V-SCH-5: a tick without SCH.INIT changes nothing. -/
theorem test_evTick_without_callbacks :
    (after (exec .evTick { base with st := { base.st with running := true } })).map (fun s => s.sch.pending) =
      some 0 := by decide

/-- V-SCH-4: the Poll step with three ticks pending. -/
theorem test_evSchStep_poll :
    (after (exec .evSchStep { base with sch := { pending := 3, elapsedMs := 0, phase := .poll, idx := 5 } })).map
      (fun s => s.sch) = some { pending := 2, elapsedMs := 0, phase := .pass, idx := 0 } := by decide

/-- V-SCH-3 pass c: the accumulator wraps at the end of a pass. -/
theorem test_evSchStep_wraps :
    (after (exec .evSchStep { base with sch := { pending := 0, elapsedMs := 0xFFFFFFFA, phase := .pass, idx := 1 } })).map
      (fun s => s.sch) = some { pending := 0, elapsedMs := 4, phase := .poll, idx := 1 } := by decide

/-- V-SCH-3: what is due at the tested values. -/
theorem test_rowDue :
    rowDue 0xFFFFFFE6 10 = true ∧ rowDue 0xFFFFFFE6 16 = false ∧ rowDue 0xFFFFFFF0 16 = true ∧ rowDue 4 10 = false := by
  decide

/-! ## USART -/

/-- V-US-INIT. -/
def initCfg (baud1 : Nat) (c : Config) : Config :=
  { c with ucfg := [UCfg.fixture,
      { UCfg.fixture with baud := baud1, oversampling := 16, wordlen := .nine, parity := .odd, stop := .two },
      { UCfg.fixture with present := false }] }

/-- V-US-INIT. -/
theorem test_usInit :
    (after (exec .usInit (withC (initCfg 115200)))).map (fun s => s.us.map (fun u => (u.brr, u.cr, u.stop))) =
      some [(0x0D03, 0x8000, 0), (0x008B, 0x1600, 2), (0, 0, 0)] := by decide

/-- V-US-INIT with `UCFG[1].baud = 0`: R0 = 2 and nothing written. -/
theorem test_usInit_bad_baud :
    (after (exec .usInit (withC (initCfg 0)))).map (fun s => (s.port.r0, s.us.map (fun u => u.brr))) =
      some (2, [0, 0, 0]) := by decide

/-- Section 2.4: the order of the checks. -/
theorem test_transfer_checks :
    r0 (exec (.usSendA 0) (portState 0 3 7)) = some 3 ∧ r0 (exec (.usSendA 0) (portState 0x2000 3 0)) = some 3 ∧
    r0 (exec (.usSendA 5) (portState 0 3 7)) = some 3 ∧ r0 (exec (.usSendA 5) base) = some 1 ∧
    r0 (exec (.usSendB 3) base) = some 1 ∧ r0 (exec (.usRecvB 0) (portState 0 0 0)) = some 3 ∧
    r0 (exec (.usRecvA 0) (withU (rxReady 0 1))) = some 4 ∧ r0 (exec (.usRecvA 0) (withU (txReady 1 3))) = some 0 := by
  decide

/-- V-US-SENDB. -/
theorem test_usSendB :
    trace (exec (.usSendB 0) base) = some [.txFrame 0 0x41, .ret 0] ∧
    (u0 (exec (.usSendB 0) base)).map (fun u => (u.cr, u.tc, u.txInflight, u.tx.state)) =
      some (0x0008, false, some 0x41, .idle) := by decide

/-- V-US-RECVB-1. -/
theorem test_usRecvB :
    (u0 (exec (.usRecvB 0) (portState 0x3000 0 0))).map (fun u => (u.cr, u.rx.state, u.rb)) =
      some (0x0004, .busy, { phase := .spinning, spin := 0, buf := 0x3000 }) ∧
    r0 (exec (.usRecvB 0) (portState 0x3000 0 0)) = some 9 := by decide

/-- V-US-RECVB-1's last line. -/
theorem test_evPoll_finishes :
    (after (exec (.evPoll 0) (withU (spinReady 1 true)))).map
      (fun s => (bufByte s.buf 0x3000, s.port.r0, s.trace)) = some (0x77, 0, [.ret 0]) ∧
    (u0 (exec (.evPoll 0) (withU (spinReady 1 true)))).map (fun u => (u.cr, u.rxne, u.rx.state, u.rb.phase)) =
      some (0xFFFF, false, .idle, .none) := by decide

/-- V-US-RECVB-2 and V-US-RECVB-3: with the budget spent the flag is not tested, and the byte is stored. -/
theorem test_evPoll_times_out :
    (after (exec (.evPoll 0) (withU (spinReady 3 true)))).map (fun s => (bufByte s.buf 0x3000, s.port.r0)) =
      some (0x77, 5) := by decide

/-- V-US-SENDA-1's first line, with size 3 (P2 line 2 without US.INIT). -/
theorem test_usSendA :
    (u0 (exec (.usSendA 0) base)).map (fun u => (u.cr, u.tc, u.txInflight, u.tx)) =
      some (0x0048, false, some 0x41, { buf := 0x2000, pos := 1, size := 3, cb := 7, state := .busy }) := by decide

/-- Section 2.4's last line: size 0 is refused. -/
theorem test_usSendA_zero : exec (.usSendA 0) (portState 0x2000 0 7) = .refused .zeroSize := by rfl

/-- P4 line 2. -/
theorem test_usRecvA :
    (u0 (exec (.usRecvA 0) (portState 0x3000 2 9))).map (fun u => (u.cr, u.rx)) =
      some (0x0024, { buf := 0x3000, pos := 0, size := 2, cb := 9, state := .busy }) := by decide

/-- V-US-SENDB: the end of the frame. -/
theorem test_evTxDone :
    (u0 (exec (.evTxDone 0) (withU (fun u => { u with tc := false, txInflight := some 0x41 })))).map
      (fun u => (u.tc, u.txInflight)) = some (true, none) := by decide

/-- V-US-RX-LOST's first sentence, and P4 line 3. -/
theorem test_evRxByte :
    (u0 (exec (.evRxByte 0 0x5A) base)).map (fun u => (u.drRx, u.rxne)) = some (0x77, false) ∧
    (u0 (exec (.evRxByte 0 0x11) (withU (fun u => { u with cr := 0x0024 })))).map (fun u => (u.drRx, u.rxne)) =
      some (0x11, true) := by decide

/-- P2 lines 5 and 6: the last byte pushed, then the completion. -/
theorem test_evIrq_tx :
    (u0 (exec (.evIrq 0) (withU (txReady 2 3)))).map (fun u => (u.txInflight, u.tc, u.tx.pos)) =
      some (some 0x43, false, 3) ∧
    trace (exec (.evIrq 0) (withU (txReady 3 3))) = some [.txCb 0 7] ∧
    (u0 (exec (.evIrq 0) (withU (txReady 3 3)))).map (fun u => (u.cr, u.tc, u.tx.state, u.tx.pos)) =
      some (0, true, .idle, 3) := by decide

/-- P4 lines 4 and 6: the last byte stored, then the completion in the next run, which reads nothing. -/
theorem test_evIrq_rx :
    (after (exec (.evIrq 0) (withU (rxReady 1 2)))).map (fun s => (bufByte s.buf 0x3001, s.trace)) = some (0x77, []) ∧
    (u0 (exec (.evIrq 0) (withU (rxReady 1 2)))).map (fun u => (u.rxne, u.rx.pos, u.rx.state)) =
      some (false, 2, .busy) ∧
    trace (exec (.evIrq 0) (withU (rxReady 2 2))) = some [.rxCb 0 9] ∧
    (u0 (exec (.evIrq 0) (withU (rxReady 2 2)))).map (fun u => (u.cr, u.rxne, u.rx.state)) =
      some (0, true, .idle) := by decide

/-! ## LCD -/

/-- P3 line 7, and line 1: before Operational the request is dropped. -/
theorem test_lcdWrite :
    (after (exec (.lcdWrite 2 5) { lcdReady Lcd.reset.req with port := { a0 := 0x4000, a1 := 2, a2 := 0, r0 := 9 } })).map
      (fun s => (s.lcd.req, s.port.r0)) =
      some ({ ptr := 0x4000, len := 2, row := 2, col := 5, pos := 0, state := .busy, type := .write }, 0) ∧
    (after (exec (.lcdWrite 2 5) base)).map (fun s => (s.lcd.req, s.port.r0)) = some (Lcd.reset.req, 0) := by decide

/-- V-LCD-5: null first, then the range. -/
theorem test_lcdWrite_checks :
    r0 (exec (.lcdWrite 4 0) (portState 0 1 0)) = some 1 ∧ r0 (exec (.lcdWrite 4 0) base) = some 2 ∧
    r0 (exec (.lcdWrite 0 16) base) = some 2 ∧ r0 (exec (.lcdWrite 3 15) base) = some 0 := by decide

/-- V-LCD-6's first line, and P3 line 8: a clear over a busy slot is dropped. -/
theorem test_lcdClear :
    (after (exec .lcdClear (lcdReady Lcd.reset.req))).map (fun s => (s.lcd.req.type, s.lcd.req.state)) =
      some (.clear, .busy) ∧
    (after (exec .lcdClear (lcdReady (writeOf 2)))).map (fun s => s.lcd.req) = some (writeOf 2) := by decide

/-- P3 invocations 15 and 16. -/
theorem test_evLcdRun_init :
    (after (exec .evLcdRun (withL (fun l => { l with pwrCnt := 14 })))).map (fun s => (s.lcd.pwrCnt, s.lcd.init)) =
      some (15, .functionSet1) ∧
    trace (exec .evLcdRun (withL (fun l => { l with init := .functionSet1 }))) = some [.pin false true 0x38] := by decide

/-- P3 invocations 24 and 29: the position command; a character latched and its position passed. -/
theorem test_evLcdRun_write :
    trace (exec .evLcdRun (withL (fun l => { l with top := .operational, wr := .setPosition, req := writeOf 2 }))) =
      some [.pin false true 0x95] ∧
    (after (exec .evLcdRun (withL (fun l => { l with
      top := .operational, wr := .character, strobe := .high, rs := true, e := true, d := 0x69,
      req := { writeOf 2 with pos := 1 } })))).map (fun s => (s.trace, s.lcd.req.pos)) =
      some ([.latch true 0x69 8, .pin true false 0x69], 2) := by decide

/-- V-LCD-3 (3) and (4): the low nibble on a 4-bit bus, driven and latched. -/
theorem test_send_four_bit :
    trace (.next (sendThen 0x28 false id
      { withC (fun c => { c with lcdMode := .four }) with lcd := { Lcd.reset with hiNibble := false } })) =
      some [.pin false true 0x80] ∧
    trace (.next (sendThen 0x28 false id { withC (fun c => { c with lcdMode := .four }) with
      lcd := { Lcd.reset with hiNibble := false, strobe := .high, e := true, d := 0x80 } })) =
      some [.latch false 0x8 4, .pin false false 0x80] := by decide

/-! ## Defaults and pseudo-operations -/

/-- R224: the default command bytes of the two buses. -/
theorem test_default_commands :
    (Config.defaultFor .eight).cmdFs1 = 0x38 ∧ (Config.defaultFor .four).cmdFs1 = 0x02 ∧
      (Config.defaultFor .four).cmdFs2 = 0x28 ∧ (Config.defaultFor .four).cmdDc = 0x0C ∧
      (Config.defaultFor .four).cmdClr = 0x01 ∧ (Config.defaultFor .four).lcdMode = .four := by decide

/-- P1 line 12: with three rows and one pending tick `drain` is five words. R109, R137: in Stopped it is not legal. -/
theorem test_drain :
    scriptDrain 5 { withC (fun c => { c with run := [{ name := "A", periodMs := 10, cb := 0x101 },
        { name := "B", periodMs := 20, cb := 0x102 }, { name := "C", periodMs := 15, cb := 0x103 }] }) with
      sch := { pending := 1, elapsedMs := 20, phase := .poll, idx := 3 } } = some (List.replicate 5 .evSchStep) ∧
    scriptDrain 5 base = none ∧ drainLength base = none := by decide

/-- R109: `txbyte u0` is legal with a frame in flight and TCIE set; `ticks 1` and `txbyte u0` are not from reset. -/
theorem test_legal :
    legal (scriptTxByte 0) (withU (fun u => { txReady 3 3 u with tc := false, txInflight := some 0x41 })) = true ∧
      legal (scriptTxByte 0) base = false ∧ legal (scriptTicks 1) base = false := by decide

/-! ## States that meet the hypotheses of the statements, one theorem for each -/

/-- Three rows with opaque callbacks (P1). -/
def threeRows (c : Config) : Config :=
  { c with run := [{ name := "A", periodMs := 10, cb := 0x101 }, { name := "B", periodMs := 20, cb := 0x102 },
      { name := "C", periodMs := 15, cb := 0x103 }] }

/-- `base` with one input to come. -/
def withInput (x : Input) : State := { base with env := [x] }

/-- `base` in a pass at row `k` with accumulator `e`. -/
def inPass (k : Nat) (e : Word) : State :=
  { withC threeRows with sch := { pending := 1, elapsedMs := e, phase := .pass, idx := k } }

/-- `base` in Poll with `n` ticks pending. -/
def inPoll (n : Word) : State := { base with sch := { pending := n, elapsedMs := 0, phase := .poll, idx := 0 } }

/-- `base` with the timer running and callbacks `x`, `y`, `z`. -/
def ticking (x y z : Word) : State := { base with st := { periodMs := 10, running := true, cb0 := x, cb1 := y, cb2 := z } }

/-- `base` with the BUF region `[b, b + n)` alone admitted. -/
def admitting (b n : Nat) : State := withC (fun c => { c with bufRegions := [{ base := b, size := n }] })

theorem witness_DecodeIsTheOpcodeTable :
    decode 0x24FF0000 = .ok (.usRecvA 255) ∧
      ∃ r ∈ opcodeRows, (0x24FF0000 : Word) &&& r.mask = r.pattern := by decide

theorem witness_IllegalWordIsRefused :
    configOk (withInput (.word 0x12000000)).cfg = true ∧
    (∀ r ∈ opcodeRows, (0x12000000 : Word) &&& r.mask ≠ r.pattern) ∧
    base.cfg.nUsart ≤ (3 : Byte).toNat ∧ decode 0xE2030000 = .ok (.evTxDone 3) ∧
    decode 0xE30300FF = .ok (.evRxByte 3 0xFF) ∧ decode 0xE4FF0000 = .ok (.evIrq 255) ∧
    decode 0xE6030000 = .ok (.evPoll 3) := by decide

theorem witness_StepRunsDecodedWord :
    configOk (withInput (.word 0xE2020000)).cfg = true ∧ (withInput (.word 0xE2020000)).env = [.word 0xE2020000] ∧
      decode 0xE2020000 = .ok (.evTxDone 2) ∧ (Instr.evTxDone 2).wf base.cfg.nUsart = true := by decide

theorem witness_StepTakesHostWrites :
    configOk base.cfg = true ∧ base.env = [] ∧ (withInput (.operand .a2 5)).env = [.operand .a2 5] ∧
      (withInput (.bufWrite 0xFFFFFFFF 1)).env = [.bufWrite 0xFFFFFFFF 1] ∧ admits base.cfg 0xFFFFFFFF = true ∧
      admits base.cfg 1 = true := by decide

theorem witness_BadConfigurationIsRefused :
    (∃ r ∈ (withC (fun c => { c with run := [{ name := "A", periodMs := 0, cb := 1 }] })).cfg.run, r.periodMs = 0) ∧
      (withC (fun c => { c with schTick := 0 })).cfg.schTick = 0 ∧
      (withC (fun c => { c with cbLcd := 0 })).cfg.cbLcd = 0 ∧
      (withC (fun c => { c with schTick := 5, cbLcd := 5 })).cfg.schTick = 5 := by decide

theorem witness_ResetMeetsInvariant :
    configOk Config.default = true ∧ Memory.wf [(1, 0x41), (0xFFFFFFFF, 0x42)] = true := by decide

theorem witness_NothingIsArmedAfterReset : (2 : Byte).toNat < Config.default.nUsart := by decide

theorem witness_SchStartArmsTheTimer : base.sch.phase = .stopped ∧ (inPoll 0).sch.phase ≠ .stopped := by decide

theorem witness_InvokeHasFourCases :
    base.cfg.schTick ≠ 0 ∧ base.cfg.cbLcd ≠ 0 ∧ base.cfg.schTick ≠ base.cfg.cbLcd ∧
      (1 : Word) ≠ 0 ∧ (1 : Word) ≠ base.cfg.schTick ∧ (1 : Word) ≠ base.cfg.cbLcd := by decide

theorem witness_TickInvokesCallbacksInSlotOrder :
    base.st.running = false ∧ (ticking base.cfg.schTick 0 5).st.running = true ∧
      (∃ s1 s2 s3, invoke base.cfg.schTick (ticking base.cfg.schTick 0 5) = .next s1 ∧ invoke 0 s1 = .next s2 ∧
        invoke 5 s2 = .next s3) ∧
      base.cfg.schTick ≠ 0 ∧ base.cfg.schTick ≠ base.cfg.cbLcd ∧ (0 : Word) ≠ base.cfg.cbLcd ∧
      (5 : Word) ≠ base.cfg.cbLcd :=
  ⟨by decide, by decide, ⟨_, _, _, rfl, rfl, rfl⟩, by decide⟩

theorem witness_SchStepBeginsAndEndsPasses :
    base.sch.phase = .stopped ∧ ((inPoll 1).sch.phase = .poll ∧ (inPoll 1).sch.pending ≠ 0) ∧
      ((inPoll 0).sch.phase = .poll ∧ (inPoll 0).sch.pending = 0) ∧
      ((inPass 3 0).sch.phase = .pass ∧ (inPass 3 0).sch.idx = (inPass 3 0).cfg.nRun) := by decide

theorem witness_SchStepExaminesOneRow :
    (inPass 2 10).sch.phase = .pass ∧
      (inPass 2 10).cfg.run[(inPass 2 10).sch.idx]? = some { name := "C", periodMs := 15, cb := 0x103 } ∧
      (inPass 2 10).sch.elapsedMs.toNat % 15 ≠ 0 ∧ (inPass 2 30).sch.elapsedMs.toNat % 15 = 0 ∧
      ∃ t, invoke 0x103 { inPass 2 30 with trace := [.run 2] } = .next t :=
  ⟨by decide, by decide, by decide, by decide, ⟨_, rfl⟩⟩

theorem witness_OnePassDispatchesTheDueRowsInOrder :
    (inPass 0 10).sch.phase = .pass ∧ (inPass 0 10).sch.idx = 0 ∧
      ∀ r ∈ (inPass 0 10).cfg.run, 0 < r.periodMs ∧ r.cb ≠ (inPass 0 10).cfg.schTick ∧
        r.cb ≠ (inPass 0 10).cfg.cbLcd := by decide

theorem witness_RowIsDueEveryLcmOverTickPasses : 0 < 25 ∧ 0 < 10 ∧ 429496729 * 10 < 2 ^ 32 := by decide

theorem witness_OnlyPollDecrementsPending :
    (∀ r ∈ (inPoll 1).cfg.run, r.cb ≠ (inPoll 1).cfg.schTick) ∧ Instr.evSchStep ≠ .evTick ∧
      (∀ j, Instr.evSchStep ≠ .evIrq j) ∧ ∃ t, exec .evSchStep (inPoll 1) = .next t :=
  ⟨by decide, by decide, (fun _ h => by cases h), ⟨_, rfl⟩⟩

theorem witness_ElapsedAdvancesOnlyAtPassEnd : ∃ t, exec .evSchStep (inPass 3 0) = .next t := ⟨_, rfl⟩

theorem witness_UsInitProgramsEveryPresentUsart :
    (∃ c ∈ (withC (initCfg 0)).cfg.ucfg, c.present = true ∧ brr c.pclkHz c.baud c.oversampling = none) ∧
      (∀ c ∈ base.cfg.ucfg, c.present = true → brr c.pclkHz c.baud c.oversampling ≠ none) ∧
      base.cfg.ucfg[0]? = some UCfg.fixture ∧ base.us[0]? = some (Usart.resetWith 0x77) ∧
      base.cfg.ucfg[2]? = some { UCfg.fixture with present := false } ∧
      base.us[2]? = some (Usart.resetWith 0x77) := by decide

theorem witness_UsInitFrame : ∃ t v, exec .usInit base = .next t ∧ base.us[0]? = some (Usart.resetWith 0x77) ∧
    t.us[0]? = some v := ⟨_, _, rfl, rfl, rfl⟩

theorem witness_TransferChecksInOrder :
    base.us.length = base.cfg.nUsart ∧ (portState 0 3 7).port.a0 = 0 ∧ (portState 1 3 0).port.a2 = 0 ∧
      base.port.a0 ≠ 0 ∧ base.port.a2 ≠ 0 ∧ base.cfg.nUsart ≤ (3 : Byte).toNat ∧
      (∃ u, usart? (withU (txReady 1 3)) 0 = some u ∧ u.tx.state = .busy) ∧
      ∃ u, usart? (withU (rxReady 0 1)) 0 = some u ∧ u.rx.state = .busy :=
  ⟨by decide, by decide, by decide, by decide, by decide, by decide, ⟨_, rfl, rfl⟩, ⟨_, rfl, rfl⟩⟩

/-- For SendBHandsOverOneByte, RecvBStartsTheSpin, SendAPushesTheFirstByte (both clauses) and RecvAArmsTheReceiver. -/
theorem witness_transfer_commands :
    base.cfg.acceptAtomic = true ∧ usart? base 2 = some (Usart.resetWith 0x77) ∧ base.port.a0 ≠ 0 ∧
      base.port.a1 ≠ 0 ∧ base.port.a2 ≠ 0 ∧ (portState 0x2000 0 7).port.a1 = 0 ∧
      (Usart.resetWith 0x77).tx.state = .idle ∧ (Usart.resetWith 0x77).rx.state = .idle ∧
      (Usart.resetWith 0x77).txInflight = none ∧ admits base.cfg base.port.a0 = true := by decide

theorem witness_SendWithFrameInFlightIsRefused :
    ∃ u, usart? (withU (fun u => { u with txInflight := some 0 })) 0 = some u ∧ u.tx.state = .idle ∧
      u.txInflight ≠ none ∧ base.port.a0 ≠ 0 ∧ base.port.a1 ≠ 0 ∧ base.port.a2 ≠ 0 ∧ base.cfg.acceptAtomic = true ∧
      admits base.cfg base.port.a0 = true :=
  ⟨_, rfl, by decide⟩

theorem witness_PollEndsOrCounts :
    (Usart.resetWith 0x77).rb.phase ≠ .spinning ∧
      (∃ u, usart? (withU (spinReady 3 false)) 0 = some u ∧ u.rb.phase = .spinning ∧ u.rb.spin = base.cfg.rxBudget ∧
        admits base.cfg u.rb.buf = true) ∧
      (∃ u, usart? (withU (spinReady 2 true)) 0 = some u ∧ u.rb.phase = .spinning ∧ u.rb.spin ≠ base.cfg.rxBudget ∧
        u.rxne = true ∧ admits base.cfg u.rb.buf = true) ∧
      ∃ u, usart? (withU (spinReady 2 false)) 0 = some u ∧ u.rb.phase = .spinning ∧ u.rb.spin ≠ base.cfg.rxBudget ∧
        u.rxne = false :=
  ⟨by decide, ⟨_, rfl, by decide⟩, ⟨_, rfl, by decide⟩, ⟨_, rfl, by decide⟩⟩

/-- `base` with `ACCEPT_ATOMIC = false`. -/
def splitBase : State := withAtomic false base

/-- The clear clause stands at a state with A0 = 0. -/
theorem witness_SplitAcceptJoinsToTheAtomicOne :
    splitBase.cfg.acceptAtomic = false ∧ (usart? splitBase 0).any (fun u => u.tx.state == .idle && u.rx.state == .idle) ∧
      splitBase.port.a0 ≠ 0 ∧ splitBase.port.a2 ≠ 0 ∧
      (∃ t, exec (.usSendA 0) (withAtomic true splitBase) = .next t) ∧
      (withAtomic false (lcdReady Lcd.reset.req)).lcd.req.state = .idle ∧
      (withAtomic false (lcdReady Lcd.reset.req)).lcd.top = .operational ∧
      (3 : Byte).toNat < splitBase.cfg.lcdRows ∧ (15 : Byte).toNat < splitBase.cfg.lcdCols ∧
      (∃ t, exec (.lcdWrite 3 15) (withAtomic true (withAtomic false (lcdReady Lcd.reset.req))) = .next t) ∧
      ∃ t, exec .lcdClear (withAtomic true (withAtomic false { lcdReady Lcd.reset.req with port := (portState 0 0 0).port }))
        = .next t :=
  ⟨by decide, by decide, by decide, by decide, ⟨_, rfl⟩, by decide, by decide, by decide, by decide, ⟨_, rfl⟩, ⟨_, rfl⟩⟩

theorem witness_SendFrame :
    ∃ t u v, exec (.usSendB 0) base = .next t ∧ usart? base 0 = some u ∧ usart? t 0 = some v :=
  ⟨_, _, _, rfl, rfl, rfl⟩

theorem witness_ReceiveFrame :
    (∃ t u v, exec (.usRecvB 0) base = .next t ∧ usart? base 0 = some u ∧ usart? t 0 = some v) ∧
      ∃ t, exec (.usRecvA 0) base = .next t :=
  ⟨⟨_, _, _, rfl, rfl, rfl⟩, ⟨_, rfl⟩⟩

theorem witness_TxDoneEndsTheFrame :
    usart? base 0 = some (Usart.resetWith 0x77) ∧ (Usart.resetWith 0x77).txInflight = none ∧
      ∃ u, usart? (withU (fun u => { u with txInflight := some 0 })) 0 = some u ∧ u.txInflight ≠ none :=
  ⟨by decide, by decide, ⟨_, rfl, by decide⟩⟩

theorem witness_RxByteIsLostLoadedOrDrawn :
    (usart? base 0).any (fun u => crBit u.cr 2 == false) ∧
      (usart? (withU (fun u => { u with cr := 0x0004 })) 0).any (fun u => crBit u.cr 2 && u.rxne == false) ∧
      (usart? (withU (rxReady 0 1)) 0).any (fun u => crBit u.cr 2 && u.rxne) := by decide

theorem witness_IrqNeedsARoutedCause :
    base.cfg.ucfg[2]? = some { UCfg.fixture with present := false } ∧ irqPending base 2 = false ∧
      irqPending (withU (rxReady 0 1)) 0 = true ∧ irqPending (withU (txReady 1 3)) 0 = true := by decide

theorem witness_IrqServesTxThenRx :
    irqPending (withU (fun u => txReady 1 3 (rxReady 0 1 u))) 0 = true ∧
      ∃ t, exec (.evIrq 0) (withU (fun u => txReady 1 3 (rxReady 0 1 u))) = .next t :=
  ⟨by decide, ⟨_, rfl⟩⟩

/-- A handler run with the Tx cause alone: `u` meets the premises of IrqTxPushesOrCompletes. -/
def txCauseAlone (s : State) (u : Usart) : Bool :=
  nvicEn s.cfg 0 && u.tc && crBit u.cr 6 && !(gated s.cfg.irqGate u.rxne (crBit u.cr 5))

/-- A handler run with the Rx cause alone: `u` meets the premises of IrqRxStoresOrCompletes. -/
def rxCauseAlone (s : State) (u : Usart) : Bool :=
  nvicEn s.cfg 0 && u.rxne && crBit u.cr 5 && !(gated s.cfg.irqGate u.tc (crBit u.cr 6))

theorem witness_IrqTxPushesOrCompletes :
    (usart? (withU (txReady 2 3)) 0).any (fun u => txCauseAlone base u && decide (u.tx.pos < u.tx.size) &&
      crBit u.cr 3 && u.txInflight.isNone && admits base.cfg (u.tx.buf + u.tx.pos)) ∧
    (usart? (withU (txReady 3 3)) 0).any (fun u => txCauseAlone base u && !decide (u.tx.pos < u.tx.size)) ∧
    ∃ t, invoke 7 { withU (txReady 3 3) with trace := [.txCb 0 7] } = .next t :=
  ⟨by decide, by decide, ⟨_, rfl⟩⟩

theorem witness_IrqRxStoresOrCompletes :
    (usart? (withU (rxReady 1 2)) 0).any (fun u => rxCauseAlone base u && decide (u.rx.pos < u.rx.size) &&
      admits base.cfg (u.rx.buf + u.rx.pos) && decide (u.rx.pos + 1 = u.rx.size)) ∧
    (usart? (withU (rxReady 2 2)) 0).any (fun u => rxCauseAlone base u && !decide (u.rx.pos < u.rx.size)) ∧
    (usart? (withU (rxReady 0 2)) 0).any (fun u => rxCauseAlone base u && decide (u.rx.pos + 1 ≠ u.rx.size)) ∧
    base.cfg.rxCompleteEager = false ∧ (withC (fun c => { c with rxCompleteEager := true })).cfg.rxCompleteEager = true ∧
    ∃ t, invoke 9 { withU (rxReady 2 2) with trace := [.rxCb 0 9] } = .next t :=
  ⟨by decide, by decide, by decide, by decide, by decide, ⟨_, rfl⟩⟩

/-- The push run of a transfer whose callback is SCHTICK reaches no callback, and a run that stores a byte with the
callback 9. -/
theorem witness_IrqFrame :
    (∃ t u v, exec (.evIrq 0) (withU (fun u => { txReady 1 3 u with tx := { (txReady 1 3 u).tx with cb := 0xFFFFFFFF } }))
        = .next t ∧
      usart? (withU (fun u => { txReady 1 3 u with tx := { (txReady 1 3 u).tx with cb := 0xFFFFFFFF } })) 0 = some u ∧
      usart? t 0 = some v ∧ u.tx.cb = base.cfg.schTick ∧ ¬ TxCompletes base.cfg u ∧ ¬ RxCompletes base.cfg u ∧
      ¬ RxStores base.cfg u) ∧
    ∃ t u v, exec (.evIrq 0) (withU (rxReady 0 2)) = .next t ∧ usart? (withU (rxReady 0 2)) 0 = some u ∧
      usart? t 0 = some v ∧ RxStores base.cfg u ∧ ¬ TxCompletes base.cfg u ∧ u.rx.cb ≠ base.cfg.schTick ∧
      u.rx.cb ≠ base.cfg.cbLcd :=
  ⟨⟨_, _, _, rfl, rfl, rfl, by decide⟩, ⟨_, _, _, rfl, rfl, rfl, by decide⟩⟩

theorem witness_PollFrame :
    (∃ t u v, exec (.evPoll 0) (withU (spinReady 3 false)) = .next t ∧ usart? (withU (spinReady 3 false)) 0 = some u ∧
      usart? t 0 = some v) ∧
    ∃ t u v, exec (.evPoll 0) (withU (spinReady 0 false)) = .next t ∧ usart? (withU (spinReady 0 false)) 0 = some u ∧
      usart? t 0 = some v ∧ u.rb.spin ≠ base.cfg.rxBudget ∧ u.rxne = false :=
  ⟨⟨_, _, _, rfl, rfl, rfl⟩, ⟨_, _, _, rfl, rfl, rfl, by decide, by decide⟩⟩

theorem witness_AsyncSendTraversesTheBufferOnce :
    base.cfg.acceptAtomic = true ∧ usart? base 0 = some (Usart.resetWith 0x77) ∧ nvicEn base.cfg 0 = true ∧
      (Usart.resetWith 0x77).tx.state = .idle ∧ (Usart.resetWith 0x77).txInflight = none ∧
      (Usart.resetWith 0x77).rxne = false ∧ base.port.a0 ≠ 0 ∧ base.port.a1 ≠ 0 ∧ base.port.a2 ≠ 0 ∧
      base.port.a2 ≠ base.cfg.schTick ∧ base.port.a2 ≠ base.cfg.cbLcd ∧
      ∀ k : Nat, k < base.port.a1.toNat → admits base.cfg (base.port.a0 + BitVec.ofNat 32 k) = true := by decide

/-- Both completion rules, with two bytes to receive. -/
theorem witness_AsyncReceiveStoresTheBufferThenCompletes :
    base.cfg.acceptAtomic = true ∧ usart? base 0 = some (Usart.resetWith 0x77) ∧ nvicEn base.cfg 0 = true ∧
      (Usart.resetWith 0x77).rx.state = .idle ∧ (Usart.resetWith 0x77).rxne = false ∧
      gated base.cfg.irqGate (Usart.resetWith 0x77).tc (crBit (Usart.resetWith 0x77).cr 6) = false ∧
      base.port.a0 ≠ 0 ∧ base.port.a2 ≠ 0 ∧ base.port.a2 ≠ base.cfg.schTick ∧ base.port.a2 ≠ base.cfg.cbLcd ∧
      (∀ k : Nat, k < base.port.a1.toNat → admits base.cfg (base.port.a0 + BitVec.ofNat 32 k) = true) ∧
      base.cfg.rxCompleteEager = false ∧ 0 < base.port.a1.toNat ∧
      (withC (fun c => { c with rxCompleteEager := true })).cfg.rxCompleteEager = true := by decide

theorem witness_UsartsDoNotInterfere :
    usartOf (.usSendB 0) = some 0 ∧ (1 : Byte) ≠ 0 ∧ ∃ t, exec (.usSendB 0) base = .next t :=
  ⟨by decide, by decide, ⟨_, rfl⟩⟩

theorem witness_OnlyUsInitWritesBrrAndStop :
    Instr.usSendB 0 ≠ .usInit ∧
      ∃ t u v, exec (.usSendB 0) base = .next t ∧ usart? base 0 = some u ∧ usart? t 0 = some v :=
  ⟨by decide, ⟨_, _, _, rfl, rfl, rfl⟩⟩

theorem witness_DdramCommandAddsTheRowOffset :
    Config.default.rowOffset = [0x00, 0x40, 0x10, 0x50] ∧ Config.default.cmdSetDdram = 0x80 ∧
      4 ≤ (4 : Byte).toNat := by decide

/-- For SendOnEightBitBusTakesTwoPhases and SendOnFourBitBusTakesFourPhases. -/
theorem witness_send :
    base.cfg.lcdMode = .eight ∧ (withC (fun c => { c with lcdMode := .four })).cfg.lcdMode = .four ∧
      base.lcd.strobe = .low ∧ (withL (fun l => { l with strobe := .high })).lcd.strobe = .high ∧
      base.lcd.hiNibble = true ∧ (withL (fun l => { l with hiNibble := false })).lcd.hiNibble = false := by decide

theorem witness_InitMachineFollowsItsStates :
    base.lcd.top = .init ∧ base.lcd.init = .powerOn ∧ base.cfg.lcdMode = .eight ∧
      (withC (fun c => { c with lcdMode := .four })).cfg.lcdMode = .four ∧
      (∀ k : LcdInit, (withL (fun l => { l with init := k })).lcd.init = k ∧
        (withL (fun l => { l with init := k })).lcd.top = .init) :=
  ⟨by decide, by decide, by decide, by decide, fun _ => ⟨rfl, rfl⟩⟩

/-- `base` with an outstanding write request `r` at write state `w`. -/
def writing (w : LcdWr) (r : LcdReq) : State := withL (fun l => { l with top := .operational, wr := w, req := r })

/-- `base` with an outstanding clear request at clear state `c`. -/
def clearing (c : LcdClr) : State :=
  withL (fun l => { l with top := .operational, clr := c, req := { writeOf 2 with type := .clear } })

/-- The premises of a write clause at state `w`. -/
abbrev IsWriting (w : LcdWr) (s : State) : Prop :=
  s.lcd.top = .operational ∧ s.lcd.req.state = .busy ∧ s.lcd.req.type = .write ∧ s.lcd.wr = w

/-- The premises of a clear clause at state `c`. -/
abbrev IsClearing (c : LcdClr) (s : State) : Prop :=
  s.lcd.top = .operational ∧ s.lcd.req.state = .busy ∧ s.lcd.req.type = .clear ∧ s.lcd.clr = c

/-- A state for each clause: Off, no request, the four states of a write (Character with the last character to send
and with none), the three of a clear. -/
theorem witness_RequestMachinesFollowTheirStates :
    (withL (fun l => { l with top := .off })).lcd.top = .off ∧
      ((lcdReady Lcd.reset.req).lcd.top = .operational ∧ (lcdReady Lcd.reset.req).lcd.req.state = .idle) ∧
      IsWriting .start (writing .start (writeOf 2)) ∧
      (IsWriting .setPosition (writing .setPosition (writeOf 2)) ∧ ddramCmd base.cfg 2 5 = some 0x95) ∧
      (IsWriting .character (writing .character { writeOf 2 with pos := 1 }) ∧ (1 : Word) < (writeOf 2).len ∧
        admits base.cfg ((writeOf 2).ptr + 1) = true) ∧
      (IsWriting .character (writing .character { writeOf 2 with pos := 2 }) ∧ ¬ (2 : Word) < (writeOf 2).len) ∧
      IsWriting .done (writing .done { writeOf 2 with pos := 2 }) ∧
      IsClearing .start (clearing .start) ∧ IsClearing .inProgress (clearing .inProgress) ∧
      IsClearing .done (clearing .done) := by decide

theorem witness_InitTakesItsCountOfInvocations :
    base.lcd = Lcd.reset ∧ base.cfg.lcdPoweronTicks ≠ 0 ∧ base.cfg.lcdMode = .eight ∧
      (withC (fun c => { c with lcdMode := .four })).cfg.lcdMode = .four := by decide

/-- Both requests on both buses, the write with three characters. -/
theorem witness_RequestsTakeTheirCountOfInvocations :
    (IsWriting .start (writing .start (writeOf 3)) ∧ (writeOf 3).pos = 0 ∧
      ddramCmd base.cfg (writeOf 3).row (writeOf 3).col = some 0x95 ∧
      ∀ k : Nat, k < (writeOf 3).len.toNat → admits base.cfg ((writeOf 3).ptr + BitVec.ofNat 32 k) = true) ∧
    (IsClearing .start (clearing .start) ∧ (clearing .start).lcd.strobe = .low) ∧
    base.cfg.lcdMode = .eight ∧ (withC (fun c => { c with lcdMode := .four })).cfg.lcdMode = .four ∧
    (writing .start (writeOf 3)).lcd.hiNibble = true ∧ (clearing .start).lcd.hiNibble = true := by decide

theorem witness_LcdWriteTakesTheSlotOrIsDropped :
    base.cfg.acceptAtomic = true ∧ (portState 0 1 0).port.a0 = 0 ∧ base.port.a0 ≠ 0 ∧
      ¬ ((4 : Byte).toNat < base.cfg.lcdRows ∧ (0 : Byte).toNat < base.cfg.lcdCols) ∧
      ¬ ((0 : Byte).toNat < base.cfg.lcdRows ∧ (16 : Byte).toNat < base.cfg.lcdCols) ∧
      ((3 : Byte).toNat < base.cfg.lcdRows ∧ (15 : Byte).toNat < base.cfg.lcdCols) ∧
      base.lcd.req.state = .idle ∧ base.lcd.top ≠ .operational ∧ (lcdReady Lcd.reset.req).lcd.top = .operational ∧
      (lcdReady (writeOf 1)).lcd.req.state = .busy := by decide

theorem witness_LcdClearTakesTheSlotOrIsDropped :
    base.cfg.acceptAtomic = true ∧ (lcdReady Lcd.reset.req).lcd.req.state = .idle ∧
      (lcdReady Lcd.reset.req).lcd.top = .operational ∧ base.lcd.top ≠ .operational := by decide

theorem witness_MainAndTickFrame :
    (∃ t, exec .evTick (ticking base.cfg.schTick 0 5) = .next t) ∧ (∃ t, exec .evSchStep (inPass 0 0) = .next t) ∧
      (∃ t, exec .evLcdRun base = .next t) ∧ (ticking base.cfg.schTick 0 5).st.cb0 ≠ base.cfg.cbLcd ∧
      ∀ r ∈ (inPass 0 0).cfg.run, r.cb ≠ (inPass 0 0).cfg.cbLcd :=
  ⟨⟨_, rfl⟩, ⟨_, rfl⟩, ⟨_, rfl⟩, by decide, by decide⟩

theorem witness_OperandsAndConfigurationAreNeverWritten : ∃ t, exec (.usSendA 0) base = .next t := ⟨_, rfl⟩

theorem witness_UnadmittedAccessIsStuck :
    usart? (admitting 1 0x1FFF) 0 = some (Usart.resetWith 0x77) ∧ (admitting 1 0x1FFF).cfg.acceptAtomic = true ∧
      (admitting 1 0x1FFF).port.a0 ≠ 0 ∧ (admitting 1 0x1FFF).port.a1 ≠ 0 ∧ (admitting 1 0x1FFF).port.a2 ≠ 0 ∧
      (Usart.resetWith 0x77).tx.state = .idle ∧
      admits (admitting 1 0x1FFF).cfg (admitting 1 0x1FFF).port.a0 = false ∧
      admits (admitting 1 0x1FFF).cfg 0x1FFF = true ∧ admits (admitting 1 0x1FFF).cfg 0x3000 = false ∧
      (spinReady 3 false (Usart.resetWith 0x77)).rb.phase = .spinning ∧
      (spinReady 3 false (Usart.resetWith 0x77)).rb.buf = 0x3000 ∧
      txCauseAlone base (txReady 1 3 (Usart.resetWith 0x77)) = true ∧
      admits (admitting 1 0x1FFF).cfg 0x2001 = false ∧
      rxCauseAlone base (rxReady 0 1 (Usart.resetWith 0x77)) = true ∧ (writeOf 1).pos < (writeOf 1).len ∧
      (writeOf 1).ptr + (writeOf 1).pos = 0x2000 := by decide

theorem witness_StepKeepsInvariant :
    Inv { withInput (.word 0x21000000) with buf := [(0x2000, 0x41)] } ∧
      ∃ t, step { withInput (.word 0x21000000) with buf := [(0x2000, 0x41)] } = .next t :=
  ⟨by decide, ⟨_, rfl⟩⟩

theorem witness_OperationalIsForEver :
    Inv { lcdReady (writeOf 2) with env := [.word 0xE5000000] } ∧
      (∃ t, step { lcdReady (writeOf 2) with env := [.word 0xE5000000] } = .next t) ∧
      (lcdReady (writeOf 2)).lcd.top = .operational ∧ base.lcd.top = .init ∧ Inv base :=
  ⟨by decide, ⟨_, rfl⟩, by decide⟩

end Sys2Proof.Tests
end

section
/-! SUPPORT. One step of the machine: by its oldest input, and refused with a bad configuration (log 1, 11). -/

namespace Sys2Proof.Machine

/-! ## Configurations and inputs -/

/-- The conditions of a good configuration (log 11), one by one. -/
theorem configOk_iff {c : Config} :
    configOk c = true ↔ c.tickMs ≠ 0 ∧ (∀ r ∈ c.run, r.periodMs ≠ 0) ∧ 1 ≤ c.nUsart ∧ c.lcdPoweronTicks ≠ 0 ∧
      0 < c.lcdPeriodMs ∧ c.lcdRows ≤ 4 ∧ c.rowOffset.length = 4 ∧ c.cbLcd ≠ 0 ∧ c.schTick ≠ 0 ∧
      c.cbLcd ≠ c.schTick := by
  simp only [configOk, Bool.and_eq_true, decide_eq_true_eq, bne_iff_ne, List.all_eq_true, and_assoc]

/-- An input is carried out alike whatever state a step without inputs would stand still at. -/
theorem perform_inputAction (s r : State) (x : Input) : perform s (inputAction x r) = applyInput x r := by
  unfold applyInput
  cases x with
  | word w =>
    simp only [inputAction, wordAction]
    split
    · split_ifs <;> rfl
    · rfl
  | operand o v => rfl
  | bufWrite a b => rfl
  | accept k => rfl

theorem step_of_idle {s : State} (hc : configOk s.cfg = true) (he : s.env = []) : step s = .next s := by
  simp [step, nextAction, hc, he, perform]

theorem step_of_input {s : State} {x : Input} {rest : List Input} (hc : configOk s.cfg = true)
    (he : s.env = x :: rest) : step s = applyInput x { s with env := rest } := by
  simp [step, nextAction, hc, he, perform_inputAction]

theorem step_of_badConfig {s : State} (hc : configOk s.cfg = false) : step s = .refused .badConfig := by
  simp [step, nextAction, hc, perform]

/-- A step takes no input and stands still, or takes the oldest one, and only with a good configuration (log 1, 11). -/
theorem step_next {s t : State} (h : step s = .next t) :
    configOk s.cfg = true ∧
      ((s.env = [] ∧ t = s) ∨ ∃ x rest, s.env = x :: rest ∧ applyInput x { s with env := rest } = .next t) := by
  cases hc : configOk s.cfg with
  | false =>
    rw [step_of_badConfig hc] at h
    cases h
  | true =>
    refine ⟨rfl, ?_⟩
    cases he : s.env with
    | nil =>
      rw [step_of_idle hc he] at h
      cases h
      exact .inl ⟨rfl, rfl⟩
    | cons x rest => exact .inr ⟨x, rest, rfl, step_of_input hc he ▸ h⟩

/-! ## The inputs that are no word, and configurations without a step -/

theorem setOperand_eq (r : OpReg) (v : Word) (s : State) :
    setOperand r v s = { s with
      port := { a0 := if r = .a0 then v else s.port.a0, a1 := if r = .a1 then v else s.port.a1,
                a2 := if r = .a2 then v else s.port.a2, r0 := s.port.r0 } } := by
  cases r <;> rfl

/-- Settles O6: the step takes the input, and each HOST write is one update of the state. -/
theorem stepTakesHostWrites : Obligations.StepTakesHostWrites := by
  refine ⟨fun s hc he => step_of_idle hc he, fun s r v rest hc he => ?_, fun s a b rest hc he ha => ?_⟩
  · rw [step_of_input hc he]
    exact congrArg Host.Outcome.next (setOperand_eq r v { s with env := rest })
  · rw [step_of_input hc he]
    exact ⟨_, store_admitted (s := { s with env := rest }) b ha, rfl, rfl, bufByte_write_same s.buf a.toNat b,
      fun x hx => bufByte_write_other s.buf b hx⟩

/-- Settles O7: each listed fault breaks a condition of a good configuration. -/
theorem badConfigurationIsRefused : Obligations.BadConfigurationIsRefused := by
  intro s h
  apply step_of_badConfig
  rw [← Bool.not_eq_true, configOk_iff]
  rintro ⟨-, hrun, -, -, -, -, -, hlcd, htick, hne⟩
  obtain ⟨r, hr, h0⟩ | h | h | h := h
  · exact hrun r hr h0
  · exact htick h
  · exact hlcd h
  · exact hne h.symm

end Sys2Proof.Machine
end

section
/-! SUPPORT. What one invocation of the LCD runnable can answer, and that it keeps the LCD's part of the invariant
(42_lcd.md R226 to R247). -/

namespace Sys2Proof.Machine

/-! ## The LCD's part of the invariant -/

/-- What the invariant of the machine says of the LCD unit `l` under configuration `c`, with one more clause: where
`op` holds, the unit is operational. The parameter carries "an operational LCD stays so" (R252) through the proof that
every step keeps the invariant. -/
structure LcdSound (c : Config) (op : Prop) (l : Lcd) : Prop where
  strobe : l.strobe = .high ↔ l.e = true
  busy : l.req.state = .busy → l.top = .operational ∧ (l.req.type = .write ∨ l.req.type = .clear)
  idle : l.req.state = .idle → l.req.type = .none
  pos : l.req.pos ≤ l.req.len
  row : l.req.row.toNat < 4
  notOff : l.top ≠ .off
  set2 : l.init = .functionSet2 → c.lcdMode = .four
  nibble : c.lcdMode = .eight → l.hiNibble = true
  lowData : c.lcdMode = .four → l.d.extractLsb' 0 4 = 0
  count : l.pwrCnt ≤ c.lcdPoweronTicks
  counting : l.init = .powerOn → l.pwrCnt < c.lcdPoweronTicks
  stays : op → l.top = .operational

theorem lcdSound_iff {op : Prop} {s : State} :
    LcdSound s.cfg op s.lcd ↔ LcdInv s ∧ PowerOnInv s ∧ (op → s.lcd.top = .operational) := by
  constructor
  · intro h
    exact ⟨⟨h.strobe, h.busy, h.idle, h.pos, h.row, h.notOff, h.set2, h.nibble, h.lowData⟩, ⟨h.count, h.counting⟩,
      h.stays⟩
  · rintro ⟨⟨h1, h2, h3, h4, h5, h6, h7, h8, h9⟩, ⟨h10, h11⟩, h12⟩
    exact ⟨h1, h2, h3, h4, h5, h6, h7, h8, h9, h10, h11, h12⟩

/-- A change of the LCD unit from `l` to `l'` that keeps its part of the invariant, and Operational with it. -/
def LcdKept (c : Config) (l l' : Lcd) : Prop := ∀ op : Prop, LcdSound c op l → LcdSound c op l'

theorem LcdKept.refl (c : Config) (l : Lcd) : LcdKept c l l := fun _ h => h

theorem LcdKept.setInit {c : Config} {l : Lcd} {i : LcdInit} (h2 : i = .functionSet2 → c.lcdMode = .four)
    (hp : i ≠ .powerOn) : LcdKept c l { l with init := i } :=
  fun _ h => { h with set2 := h2, counting := fun e => absurd e hp }

theorem LcdKept.setWr (c : Config) (l : Lcd) (w : LcdWr) : LcdKept c l { l with wr := w } := fun _ h => { h with }

theorem LcdKept.setClr (c : Config) (l : Lcd) (k : LcdClr) : LcdKept c l { l with clr := k } := fun _ h => { h with }

theorem LcdKept.lower (c : Config) (l : Lcd) : LcdKept c l { l with e := false, strobe := .low } :=
  fun _ h => { h with strobe := by simp }

/-- The end of init (R236). -/
theorem LcdKept.operational (c : Config) (l : Lcd) : LcdKept c l { l with top := .operational } :=
  fun _ h => { h with
    busy := fun e => ⟨rfl, (h.busy e).2⟩
    notOff := by simp
    stays := fun _ => rfl }

/-- The slot's return to Idle (R243, R247). -/
theorem LcdKept.release (c : Config) (l : Lcd) : LcdKept c l { l with req := l.req.release } :=
  fun _ h => { h with
    busy := by simp [LcdReq.release]
    idle := fun _ => rfl
    pos := h.pos
    row := h.row }

/-- A character done (R242). -/
theorem LcdKept.nextPos {c : Config} {l : Lcd} (hlt : l.req.pos < l.req.len) :
    LcdKept c l { l with req := { l.req with pos := l.req.pos + 1 } } :=
  fun _ h => { h with
    busy := h.busy
    idle := h.idle
    pos := by
      show l.req.pos + 1 ≤ l.req.len
      bv_omega
    row := h.row }

/-- One count of PowerOn (R231, R42). -/
theorem LcdKept.powerOn {c : Config} {l : Lcd} (hi : l.init = .powerOn) :
    LcdKept c l { l with
      pwrCnt := l.pwrCnt + 1
      init := if c.lcdPoweronTicks ≤ l.pwrCnt + 1 then .functionSet1 else .powerOn } := by
  intro _ h
  have hlt := h.counting hi
  refine { h with set2 := ?_, count := ?_, counting := ?_ }
  · split_ifs <;> simp
  · show l.pwrCnt + 1 ≤ c.lcdPoweronTicks
    bv_omega
  · split_ifs with hp
    · simp
    · intro _
      simpa using hp

/-! ## The two-phase send -/

/-- On a 4-bit bus phase A keeps the lower data lines (log 17). -/
theorem dataLines_four_low (l : Lcd) (v : Byte) :
    (dataLines .four l v).extractLsb' 0 4 = l.d.extractLsb' 0 4 :=
  BitVec.extractLsb'_append_eq_right

theorem sendPhaseA_kept (v : Byte) (rs : Bool) (s : State) : LcdKept s.cfg s.lcd (sendPhaseA v rs s).lcd :=
  fun _ h => { h with
    strobe := ⟨fun _ => rfl, fun _ => rfl⟩
    lowData := fun hm => by
      show (dataLines s.cfg.lcdMode s.lcd v).extractLsb' 0 4 = 0
      rw [hm, dataLines_four_low, h.lowData hm] }

theorem sendPhaseB_kept (s : State) : LcdKept s.cfg s.lcd (sendPhaseB s).lcd :=
  fun op h => { LcdKept.lower s.cfg s.lcd op h with
    nibble := fun hm => by
      show (sendDone s.cfg.lcdMode s.lcd.hiNibble).1 = true
      rw [hm]
      exact h.nibble hm }

/-- A send keeps the LCD's part of the invariant when what follows its last phase does. -/
theorem sendThen_kept {v : Byte} {rs : Bool} {f : Lcd → Lcd} {s : State}
    (hf : ∀ l : Lcd, l.req = s.lcd.req → LcdKept s.cfg l (f l)) : LcdKept s.cfg s.lcd (sendThen v rs f s).lcd := by
  intro op h
  unfold sendThen
  split
  · exact sendPhaseA_kept v rs s op h
  · split_ifs
    · exact hf (sendPhaseB s).lcd rfl op (sendPhaseB_kept s op h)
    · exact sendPhaseB_kept s op h

/-! ## One invocation of the runnable -/

/-- The two forms of a next state of the LCD runnable that keeps the LCD's part of the invariant: the unit set to a
record, with its pins shown or not, or a send. -/
def LcdAnswer (s t : State) : Prop :=
  (∃ l : Lcd, LcdKept s.cfg s.lcd l ∧ (t = setLcd l s ∨ t = emitPin (setLcd l s))) ∨
    ∃ (v : Byte) (rs : Bool) (f : Lcd → Lcd),
      (∀ l : Lcd, l.req = s.lcd.req → LcdKept s.cfg l (f l)) ∧ t = sendThen v rs f s

theorem LcdAnswer.set {s : State} {l : Lcd} (h : LcdKept s.cfg s.lcd l) : LcdAnswer s (setLcd l s) :=
  .inl ⟨l, h, .inl rfl⟩

theorem LcdAnswer.send {v : Byte} {rs : Bool} {f : Lcd → Lcd} {s : State}
    (h : ∀ l : Lcd, l.req = s.lcd.req → LcdKept s.cfg l (f l)) : LcdAnswer s (sendThen v rs f s) :=
  .inr ⟨v, rs, f, h, rfl⟩

theorem LcdAnswer.refl (s : State) : LcdAnswer s s := .set (LcdKept.refl s.cfg s.lcd)

theorem initStep_answer (s : State) : LcdAnswer s (initStep s) := by
  unfold initStep
  split
  case h_1 hi => exact .set (LcdKept.powerOn hi)
  case h_2 =>
    refine .send fun l _ => LcdKept.setInit ?_ ?_
    · cases s.cfg.lcdMode <;> simp [afterFs1]
    · cases s.cfg.lcdMode <;> simp [afterFs1]
  case h_6 => exact .set (LcdKept.operational s.cfg s.lcd)
  all_goals exact .send fun l _ => LcdKept.setInit (by simp) (by simp)

theorem characterStep_answer {s t : State} (h : characterStep s = .next t) : LcdAnswer s t := by
  unfold characterStep at h
  split_ifs at h with hlt
  · obtain ⟨c, -, hc⟩ := andThen_eq_next.1 h
    cases hc
    refine .send fun l hl => LcdKept.nextPos ?_
    rwa [hl]
  · cases h
    exact .set (LcdKept.setWr s.cfg s.lcd .done)

theorem writeStep_answer {s t : State} (h : writeStep s = .next t) : LcdAnswer s t := by
  unfold writeStep at h
  split at h
  · cases h
    exact .inl ⟨_, fun op hs => LcdKept.setWr s.cfg _ .setPosition op (LcdKept.lower s.cfg s.lcd op hs), .inr rfl⟩
  · unfold setPositionStep at h
    split at h
    · cases h
      exact .send fun l _ => LcdKept.setWr s.cfg l .character
    · cases h
  · exact characterStep_answer h
  · cases h
    exact .set fun op hs => LcdKept.setWr s.cfg _ .start op (LcdKept.release s.cfg s.lcd op hs)

theorem clearStep_answer (s : State) : LcdAnswer s (clearStep s) := by
  unfold clearStep
  split
  · exact .set (LcdKept.setClr s.cfg s.lcd .inProgress)
  · exact .send fun l _ => LcdKept.setClr s.cfg l .done
  · exact .set fun op hs => LcdKept.setClr s.cfg _ .start op (LcdKept.release s.cfg s.lcd op hs)

/-- What one invocation of the LCD runnable can answer (R230). -/
theorem lcdRun_answer {s t : State} (h : lcdRun s = .next t) : LcdAnswer s t := by
  unfold lcdRun at h
  split at h
  · cases h
    exact initStep_answer s
  · unfold requestStep at h
    split at h
    · exact writeStep_answer h
    · cases h
      exact clearStep_answer s
    · cases h
      exact .refl s
    · cases h
      exact .refl s
  · cases h
    exact .refl s

/-- One invocation of the LCD runnable keeps the LCD's part of the invariant. -/
theorem lcdRun_kept {s t : State} (h : lcdRun s = .next t) : LcdKept s.cfg s.lcd t.lcd := by
  obtain ⟨l, hl, rfl | rfl⟩ | ⟨v, rs, f, hf, rfl⟩ := lcdRun_answer h
  · exact hl
  · exact hl
  · exact sendThen_kept hf

end Sys2Proof.Machine
end

section
/-! SUPPORT. Every operation and every step keep the invariant of the machine (10_state.md). -/

namespace Sys2Proof.Machine

/-! ## The invariant, ready for induction over the operations -/

/-- The invariant of the machine with the bound on the LCD's rows that a good configuration gives (R7) and with
`LcdSound`'s clause `op`. -/
structure Sound (op : Prop) (s : State) : Prop where
  rows : s.cfg.lcdRows ≤ 4
  lcd : LcdSound s.cfg op s.lcd
  accept : AcceptInv s
  us : UsInv s
  sch : SchInv s
  buf : BufInv s

theorem sound_iff {op : Prop} {s : State} (hr : s.cfg.lcdRows ≤ 4) :
    Sound op s ↔ Inv s ∧ (op → s.lcd.top = .operational) := by
  constructor
  · intro h
    obtain ⟨hl, hp, ho⟩ := lcdSound_iff.1 h.lcd
    exact ⟨⟨hl, hp, h.accept, h.us, h.sch, h.buf⟩, ho⟩
  · rintro ⟨⟨hl, hp, ha, hu, hs, hb⟩, ho⟩
    exact ⟨hr, lcdSound_iff.2 ⟨hl, hp, ho⟩, ha, hu, hs, hb⟩

/-! ## One rule for each update of the state -/

theorem Sound.emit {op : Prop} {s : State} (h : Sound op s) (e : Event) : Sound op (emit e s) := { h with }

theorem Sound.ret {op : Prop} {s : State} (h : Sound op s) (k : Word) : Sound op (ret k s) := { h with }

theorem Sound.setSch {op : Prop} {s : State} (h : Sound op s) {c : Sched} (hc : c.idx ≤ s.cfg.nRun) :
    Sound op (setSch c s) := { h with sch := hc }

theorem Sound.schTick {op : Prop} {s : State} (h : Sound op s) : Sound op (schTick s) := { h with }

/-- A change of one USART's record that keeps the record's invariant. -/
theorem Sound.modUs {op : Prop} {s : State} (h : Sound op s) {i : Byte} {f : Usart → Usart}
    (hf : ∀ u, usart? s i = some u → UsartInv s.cfg u → UsartInv s.cfg (f u)) : Sound op (modUs i f s) :=
  { h with us := ⟨(length_modUs i f s).trans h.us.1, forall_modUs h.us.2 hf⟩ }

/-- The same at the record an operation has read. -/
theorem Sound.modUs_at {op : Prop} {s : State} (h : Sound op s) {i : Byte} {u : Usart} {f : Usart → Usart}
    (hu : usart? s i = some u) (hf : UsartInv s.cfg u → UsartInv s.cfg (f u)) : Sound op (Machine.modUs i f s) :=
  h.modUs fun v hv => by
    obtain rfl : u = v := Option.some.inj (hu.symm.trans hv)
    exact hf

/-- A write of BUF at an admitted address (R71, R72). -/
theorem Sound.writeBuf {op : Prop} {s : State} (h : Sound op s) {a : Word} (b : Byte) (ha : admits s.cfg a = true) :
    Sound op { s with buf := Memory.write s.buf a.toNat b } :=
  { h with buf := store_keeps_wf (store_admitted b ha) h.buf }

/-- A further accept operation held between its steps (R171, R249). -/
theorem Sound.hold {op : Prop} {s : State} (h : Sound op s) {a : Accept} (ha : acceptChecked s a = true) :
    Sound op { s with accepts := s.accepts ++ [a] } :=
  { h with
    accept := fun x hx => by
      rcases List.mem_append.1 hx with hx | hx
      · exact h.accept x hx
      · obtain rfl := List.mem_singleton.1 hx
        exact ha }

/-- The checks of a pending accept operation speak of the LCD's rows and of its being operational alone. -/
theorem acceptChecked_mono {s t : State} {a : Accept} (hc : t.cfg = s.cfg)
    (ht : s.lcd.top = .operational → t.lcd.top = .operational) (h : acceptChecked s a = true) :
    acceptChecked t a = true := by
  cases a with
  | lcdWrite row col a0 a1 =>
    simp only [acceptChecked, hc, Bool.and_eq_true, decide_eq_true_eq] at h ⊢
    exact ⟨ht h.1, h.2⟩
  | lcdClear =>
    simp only [acceptChecked, decide_eq_true_eq] at h ⊢
    exact ht h
  | sendB | recvB | sendA | recvA => rfl

/-- A change of the LCD unit and the trace that keeps the LCD's part of the invariant. -/
theorem Sound.lcdChange {op : Prop} {s t : State} (h : Sound op s) (hk : LcdKept s.cfg s.lcd t.lcd)
    (hf : SameButLcd s t) : Sound op t := by
  obtain ⟨hcfg, -, hsch, -, hus, hbuf, hacc, -, -⟩ := hf
  have hop : s.lcd.top = .operational → t.lcd.top = .operational := fun e =>
    (hk (s.lcd.top = .operational) { h.lcd with stays := id }).stays e
  refine ⟨by rw [hcfg]; exact h.rows, by rw [hcfg]; exact hk op h.lcd, ?_, ?_, ?_, ?_⟩
  · intro a ha
    exact acceptChecked_mono hcfg hop (h.accept a (hacc ▸ ha))
  · rw [UsInv, hcfg, hus]
    exact h.us
  · rw [SchInv, hcfg, hsch]
    exact h.sch
  · rw [BufInv, hbuf]
    exact h.buf

/-! ## Callbacks and the scheduler -/

theorem lcdRun_sound {op : Prop} {s t : State} (h : lcdRun s = .next t) (hs : Sound op s) : Sound op t :=
  hs.lcdChange (lcdRun_kept h) (lcdRun_frame h)

theorem invoke_sound {op : Prop} {cb : Word} {s t : State} (h : invoke cb s = .next t) (hs : Sound op s) :
    Sound op t := by
  obtain rfl | ⟨-, rfl⟩ | ⟨-, h⟩ := invoke_cases h
  · exact hs
  · exact hs.schTick
  · exact lcdRun_sound h hs

theorem completionCallback_sound {op : Prop} {e : Event} {cb : Word} {s t : State}
    (h : completionCallback e cb s = .next t) (hs : Sound op s) : Sound op t := by
  obtain ⟨-, rfl⟩ | ⟨-, h⟩ := completionCallback_cases h
  · exact hs
  · exact invoke_sound h (hs.emit e)

theorem pollStep_sound {op : Prop} {s : State} (hs : Sound op s) : Sound op (pollStep s) := by
  unfold pollStep
  split_ifs
  · exact hs.setSch (Nat.zero_le _)
  · exact hs

theorem rowStep_sound {op : Prop} {r : Runnable} {s t : State} (hr : s.cfg.run[s.sch.idx]? = some r)
    (h : rowStep r s = .next t) (hs : Sound op s) : Sound op t := by
  have hlt : s.sch.idx < s.cfg.nRun := (List.getElem?_eq_some_iff.1 hr).1
  obtain ⟨m, rfl | hm, rfl⟩ := rowStep_next h
  · exact hs.setSch hlt
  · have hcfg : m.cfg = s.cfg := (invoke_frame hm).1
    refine (invoke_sound hm (hs.emit _)).setSch ?_
    rw [hcfg]
    exact hlt

theorem execEvSchStep_sound {op : Prop} {s t : State} (h : execEvSchStep s = .next t) (hs : Sound op s) :
    Sound op t := by
  obtain ⟨-, rfl⟩ | ⟨-, ⟨r, hr, h⟩ | ⟨-, rfl⟩⟩ := execEvSchStep_next h
  · exact pollStep_sound hs
  · exact rowStep_sound hr h hs
  · exact hs.setSch hs.sch

theorem execEvTick_sound {op : Prop} {s t : State} (h : execEvTick s = .next t) (hs : Sound op s) : Sound op t := by
  obtain ⟨-, m, n, h0, h1, h2⟩ := execEvTick_next h
  exact invoke_sound h2 (invoke_sound h1 (invoke_sound h0 hs))

/-! ## The two-step accept operations -/

theorem word_zero_le (a : Word) : 0 ≤ a := BitVec.le_def.2 (Nat.zero_le _)

/-- The rule R170 to R186, R246 and R248 share: an accept operation is ended by a return, held between its two steps,
or done at once; the latter two only past its checks. -/
def AcceptAnswer (s t : State) : Prop :=
  (∃ k, t = ret k s) ∨ ∃ a, acceptChecked s a = true ∧
    (t = { s with accepts := s.accepts ++ [a] } ∨ acceptStepB a s = .next t)

theorem AcceptAnswer.of_next {a : Accept} {s t : State} (ha : acceptChecked s a = true)
    (h : (∃ c, t = ret (usCode c) s) ∨ (s.cfg.acceptAtomic = false ∧ t = { s with accepts := s.accepts ++ [a] }) ∨
      (s.cfg.acceptAtomic = true ∧ acceptStepB a s = .next t)) : AcceptAnswer s t := by
  obtain ⟨c, h⟩ | ⟨-, h⟩ | ⟨-, h⟩ := h
  · exact .inl ⟨usCode c, h⟩
  · exact .inr ⟨a, ha, .inl h⟩
  · exact .inr ⟨a, ha, .inr h⟩

theorem execUsSendB_answer {i : Byte} {s t : State} (h : execUsSendB i s = .next t) : AcceptAnswer s t :=
  .of_next (a := .sendB i s.port.a0) rfl (execUsSendB_next h)

theorem execUsRecvB_answer {i : Byte} {s t : State} (h : execUsRecvB i s = .next t) : AcceptAnswer s t :=
  .of_next (a := .recvB i s.port.a0) rfl (execUsRecvB_next h)

theorem execUsSendA_answer {i : Byte} {s t : State} (h : execUsSendA i s = .next t) : AcceptAnswer s t :=
  .of_next (a := .sendA i s.port.a0 s.port.a1 s.port.a2) rfl (execUsSendA_next h)

theorem execUsRecvA_answer {i : Byte} {s t : State} (h : execUsRecvA i s = .next t) : AcceptAnswer s t :=
  .of_next (a := .recvA i s.port.a0 s.port.a1 s.port.a2) rfl (execUsRecvA_next h)

theorem lcdFree_iff {s : State} : lcdFree s = true ↔ s.lcd.req.state = .idle ∧ s.lcd.top = .operational := by
  simp [lcdFree]

theorem execLcdWrite_answer {r c : Byte} {s t : State} (h : execLcdWrite r c s = .next t) : AcceptAnswer s t := by
  obtain h | ⟨-, hf, hr, h⟩ | ⟨-, hf, hr, h⟩ := execLcdWrite_next h
  · exact .inl h
  · exact .inr ⟨_, by simp [acceptChecked, (lcdFree_iff.1 hf).2, hr], .inl h⟩
  · exact .inr ⟨.lcdWrite r c s.port.a0 s.port.a1, by simp [acceptChecked, (lcdFree_iff.1 hf).2, hr], .inr h⟩

theorem execLcdClear_answer {s t : State} (h : execLcdClear s = .next t) : AcceptAnswer s t := by
  obtain h | ⟨-, hf, h⟩ | ⟨-, hf, h⟩ := execLcdClear_next h
  · exact .inl h
  · exact .inr ⟨_, by simp [acceptChecked, (lcdFree_iff.1 hf).2], .inl h⟩
  · exact .inr ⟨.lcdClear, by simp [acceptChecked, (lcdFree_iff.1 hf).2], .inr h⟩

theorem lcdWriteB_sound {op : Prop} {row col : Byte} {a0 a1 : Word} {s t : State}
    (hc : acceptChecked s (.lcdWrite row col a0 a1) = true) (h : lcdWriteB row col a0 a1 s = .next t)
    (hs : Sound op s) : Sound op t := by
  simp only [acceptChecked, Bool.and_eq_true, decide_eq_true_eq] at hc
  obtain ⟨htop, hrow⟩ := hc
  cases h
  refine (Sound.lcdChange (t := setLcd { s.lcd with req := writeRequest row col a0 a1 } s) hs
    (fun _ hl => { hl with
      busy := fun _ => ⟨htop, .inl rfl⟩
      idle := by simp [writeRequest]
      pos := word_zero_le a1
      row := lt_of_lt_of_le hrow hs.rows }) ?_).ret _
  simp [SameButLcd]

theorem lcdClearB_sound {op : Prop} {s t : State} (hc : acceptChecked s .lcdClear = true)
    (h : lcdClearB s = .next t) (hs : Sound op s) : Sound op t := by
  have htop : s.lcd.top = .operational := by simpa [acceptChecked] using hc
  cases h
  refine (Sound.lcdChange (t := setLcd { s.lcd with req := { s.lcd.req with type := .clear, state := .busy } } s) hs
    (fun _ hl => { hl with
      busy := fun _ => ⟨htop, .inr rfl⟩
      idle := by simp
      pos := hl.pos
      row := hl.row }) ?_).ret _
  simp [SameButLcd]

/-- Step B of an accept operation that passed its checks keeps the invariant. -/
theorem acceptStepB_sound {op : Prop} {a : Accept} {s t : State} (hc : acceptChecked s a = true)
    (h : acceptStepB a s = .next t) (hs : Sound op s) : Sound op t := by
  cases a with
  | sendB i a0 =>
    obtain ⟨u, hu, -, -, rfl⟩ := sendBStepB_next.1 h
    exact ((hs.modUs_at hu fun ⟨_, hrest⟩ => ⟨by simp, hrest⟩).emit _).ret _
  | recvB i a0 =>
    obtain ⟨u, hu, rfl⟩ := recvBStepB_next.1 h
    exact hs.modUs_at hu fun ⟨htc, htx, hrx, hstop, _⟩ => ⟨htc, htx, hrx, hstop, fun _ => word_zero_le _⟩
  | sendA i a0 a1 a2 =>
    obtain ⟨u, hu, hz, -, -, rfl⟩ := sendAStepB_next.1 h
    have hpos : 1 ≤ a1 := by bv_omega
    exact ((hs.modUs_at hu fun ⟨_, _, hrest⟩ => ⟨by simp, hpos, hrest⟩).emit _).ret _
  | recvA i a0 a1 a2 =>
    obtain ⟨u, hu, rfl⟩ := recvAStepB_next.1 h
    exact (hs.modUs_at hu fun ⟨htc, htx, _, hrest⟩ => ⟨htc, htx, word_zero_le a1, hrest⟩).ret _
  | lcdWrite row col a0 a1 => exact lcdWriteB_sound hc h hs
  | lcdClear => exact lcdClearB_sound hc h hs

theorem AcceptAnswer.sound {op : Prop} {s t : State} (h : AcceptAnswer s t) (hs : Sound op s) : Sound op t := by
  obtain ⟨k, rfl⟩ | ⟨a, hc, rfl | h⟩ := h
  · exact hs.ret k
  · exact hs.hold hc
  · exact acceptStepB_sound hc h hs

/-! ## The remaining USART operations -/

theorem programWith_inv {c : Config} (k : UCfg) (v : Half) {u : Usart} (hu : UsartInv c u) :
    UsartInv c (programWith k v u) := by
  obtain ⟨htc, htx, hrx, -, hrb⟩ := hu
  refine ⟨htc, htx, hrx, ?_, hrb⟩
  show (if k.stop = .two then 2 else 0 : BitVec 2) = 0 ∨ (if k.stop = .two then 2 else 0 : BitVec 2) = 2
  split_ifs
  · exact .inr rfl
  · exact .inl rfl

theorem programUsart_inv {c : Config} (k : UCfg) {u : Usart} (hu : UsartInv c u) : UsartInv c (programUsart k u) := by
  unfold programUsart
  split_ifs
  · split
    · exact programWith_inv k _ hu
    · exact hu
  · exact hu

theorem programAll_inv {c : Config} (ks : List UCfg) (us : List Usart) (h : ∀ u ∈ us, UsartInv c u) :
    ∀ u ∈ programAll ks us, UsartInv c u := by
  induction ks generalizing us with
  | nil => exact h
  | cons k ks ih =>
    cases us with
    | nil => exact h
    | cons u us =>
      rw [List.forall_mem_cons] at h
      exact List.forall_mem_cons.2 ⟨programUsart_inv k h.1, ih us h.2⟩

theorem length_programAll (ks : List UCfg) (us : List Usart) : (programAll ks us).length = us.length := by
  induction ks generalizing us with
  | nil => rfl
  | cons k ks ih =>
    cases us with
    | nil => rfl
    | cons u us => simp [programAll, ih]

/-- US.INIT: a bad configuration reported, or every USART programmed (R166). -/
theorem execUsInit_next {s t : State} (h : execUsInit s = .next t) :
    (∃ k, t = ret k s) ∨ ∃ k, t = ret k { s with us := programAll s.cfg.ucfg s.us } := by
  unfold execUsInit at h
  split_ifs at h
  · exact .inr ⟨_, by simpa using h.symm⟩
  · exact .inl ⟨_, by simpa using h.symm⟩

theorem execUsInit_sound {op : Prop} {s t : State} (h : execUsInit s = .next t) (hs : Sound op s) : Sound op t := by
  obtain ⟨k, rfl⟩ | ⟨k, rfl⟩ := execUsInit_next h
  · exact hs.ret k
  · exact { hs with
      us := ⟨(length_programAll _ _).trans hs.us.1, programAll_inv s.cfg.ucfg s.us hs.us.2⟩ }

theorem execEvTxDone_sound {op : Prop} {i : Byte} {s t : State} (h : execEvTxDone i s = .next t) (hs : Sound op s) :
    Sound op t := by
  obtain ⟨u, hu, -, rfl⟩ := execEvTxDone_next.1 h
  exact hs.modUs_at hu fun ⟨_, hrest⟩ => ⟨by simp, hrest⟩

theorem execEvRxByte_sound {op : Prop} {i d : Byte} {s t : State} (h : execEvRxByte i d s = .next t)
    (hs : Sound op s) : Sound op t := by
  obtain ⟨u, hu, ⟨-, rfl⟩ | ⟨-, -, rfl⟩ | ⟨-, -, rfl⟩⟩ := execEvRxByte_next h
  · exact hs
  · exact hs.modUs_at hu id
  · exact { hs.modUs_at (f := Usart.drawByte (Config.rxDraw s.draws) d) hu id with }

theorem recvBEnd_inv {c : Config} (fix : Bool) {u : Usart} (hu : UsartInv c u) : UsartInv c (recvBEnd fix u) := by
  obtain ⟨htc, htx, hrx, hstop, -⟩ := hu
  exact ⟨by simpa [Usart.endRecvB] using htc, by simpa [Usart.endRecvB] using htx, hrx,
    by simpa [Usart.endRecvB] using hstop, fun hp => by cases hp⟩

theorem finishRecvB_sound {op : Prop} {i : Byte} {c : UsStatus} {s t : State} (h : finishRecvB i c s = .next t)
    (hs : Sound op s) : Sound op t := by
  obtain ⟨u, hu, ha, rfl⟩ := finishRecvB_next.1 h
  exact ((hs.modUs_at hu (recvBEnd_inv s.cfg.recvbFix)).writeBuf _ ha).ret _

/-- A spin short of its budget stays within it when counted (R177). -/
theorem spinOnce_inv {c : Config} {u : Usart} (hne : u.rb.spin ≠ c.rxBudget) (hu : UsartInv c u) :
    UsartInv c u.spinOnce := by
  obtain ⟨htc, htx, hrx, hstop, hrb⟩ := hu
  refine ⟨htc, htx, hrx, hstop, fun hp => ?_⟩
  have hle := hrb hp
  show u.rb.spin + 1 ≤ c.rxBudget
  bv_omega

theorem execEvPoll_sound {op : Prop} {i : Byte} {s t : State} (h : execEvPoll i s = .next t) (hs : Sound op s) :
    Sound op t := by
  obtain ⟨u, hu, -, ⟨-, h⟩ | ⟨-, -, h⟩ | ⟨hne, -, rfl⟩⟩ := execEvPoll_next h
  · exact finishRecvB_sound h hs
  · exact finishRecvB_sound h hs
  · exact hs.modUs_at hu (spinOnce_inv hne)

/-! ## The handler -/

/-- The record after a byte is pushed by the handler (R191). -/
theorem txPushed_inv {c : Config} {u : Usart} (b : Byte) (hlt : u.tx.pos < u.tx.size) (hu : UsartInv c u) :
    UsartInv c (Usart.txAdvance (u.startFrame b)) := by
  obtain ⟨-, -, hrest⟩ := hu
  refine ⟨by simp, ?_, hrest⟩
  show u.tx.pos + 1 ≤ u.tx.size
  bv_omega

theorem rxStored_inv {c : Config} {u : Usart} (hlt : u.rx.pos < u.rx.size) (hu : UsartInv c u) :
    UsartInv c (rxStored u) := by
  obtain ⟨htc, htx, -, hrest⟩ := hu
  refine ⟨htc, htx, ?_, hrest⟩
  show u.rx.pos + 1 ≤ u.rx.size
  bv_omega

theorem txBranch_sound {op : Prop} {i : Byte} {s t : State} (h : txBranch i s = .next t) (hs : Sound op s) :
    Sound op t := by
  obtain ⟨u, hu, ⟨hlt, -, -, rfl⟩ | ⟨-, h⟩⟩ := txBranch_next h
  · exact (hs.modUs_at hu (txPushed_inv _ hlt)).emit _
  · exact completionCallback_sound h (hs.modUs_at hu id)

theorem completeRx_sound {op : Prop} {i : Byte} {cb : Word} {s t : State} (h : completeRx i cb s = .next t)
    (hs : Sound op s) : Sound op t :=
  completionCallback_sound h (hs.modUs fun _ _ hv => hv)

theorem rxBranch_sound {op : Prop} {i : Byte} {s t : State} (h : rxBranch i s = .next t) (hs : Sound op s) :
    Sound op t := by
  obtain ⟨u, hu, hcases⟩ := rxBranch_next h
  have stored (hlt : u.rx.pos < u.rx.size) : Sound op (modUs i rxStored s) := hs.modUs_at hu (rxStored_inv hlt)
  obtain ⟨hlt, ha, -, rfl⟩ | ⟨hlt, ha, -, h⟩ | ⟨-, h⟩ := hcases
  · exact (stored hlt).writeBuf _ ha
  · exact completeRx_sound h ((stored hlt).writeBuf _ ha)
  · exact completeRx_sound h hs

theorem execEvIrq_sound {op : Prop} {i : Byte} {s t : State} (h : execEvIrq i s = .next t) (hs : Sound op s) :
    Sound op t := by
  obtain ⟨-, m, htx, hrx⟩ := execEvIrq_next.1 h
  have hm : Sound op m := by
    obtain ⟨-, -, ⟨-, h⟩ | ⟨-, rfl⟩⟩ := irqTx_next htx
    · exact txBranch_sound h hs
    · exact hs
  obtain ⟨-, -, ⟨-, h⟩ | ⟨-, rfl⟩⟩ := irqRx_next hrx
  · exact rxBranch_sound h hm
  · exact hm

/-! ## Every operation and every step -/

/-- Every operation keeps the invariant. -/
theorem exec_sound {op : Prop} {c : Instr} {s t : State} (h : exec c s = .next t) (hs : Sound op s) : Sound op t := by
  cases c with
  | schInit =>
    cases h
    exact { hs with }
  | schStart =>
    obtain ⟨-, rfl⟩ := execSchStart_next h
    exact { hs with sch := Nat.zero_le _ }
  | usInit => exact execUsInit_sound h hs
  | usSendB i => exact (execUsSendB_answer h).sound hs
  | usRecvB i => exact (execUsRecvB_answer h).sound hs
  | usSendA i => exact (execUsSendA_answer h).sound hs
  | usRecvA i => exact (execUsRecvA_answer h).sound hs
  | lcdWrite row col => exact (execLcdWrite_answer h).sound hs
  | lcdClear => exact (execLcdClear_answer h).sound hs
  | evTick => exact execEvTick_sound h hs
  | evSchStep => exact execEvSchStep_sound h hs
  | evTxDone i => exact execEvTxDone_sound h hs
  | evRxByte i d => exact execEvRxByte_sound h hs
  | evIrq i => exact execEvIrq_sound h hs
  | evLcdRun => exact lcdRun_sound h hs
  | evPoll i => exact execEvPoll_sound h hs

/-- The next inputs are the model's own (log 1), and no rule reads them. -/
theorem Sound.setEnv {op : Prop} {s : State} (h : Sound op s) (e : List Input) : Sound op { s with env := e } :=
  { h with }

theorem setOperand_sound {op : Prop} {s : State} (hs : Sound op s) (r : OpReg) (v : Word) :
    Sound op (setOperand r v s) := by
  cases r <;> exact { hs with }

/-- A pending accept operation takes its step B (log 9). -/
theorem continueAccept_sound {op : Prop} {k : Nat} {s t : State} (h : continueAccept k s = .next t)
    (hs : Sound op s) : Sound op t := by
  unfold continueAccept at h
  split at h
  next a ha =>
    have hs' : Sound op { s with accepts := s.accepts.eraseIdx k } :=
      { hs with accept := fun x hx => hs.accept x (List.mem_of_mem_eraseIdx hx) }
    have hc : acceptChecked { s with accepts := s.accepts.eraseIdx k } a = true :=
      hs.accept a (List.mem_of_getElem? ha)
    exact acceptStepB_sound hc h hs'
  next => cases h

theorem applyInput_sound {op : Prop} {x : Input} {s t : State} (h : applyInput x s = .next t) (hs : Sound op s) :
    Sound op t := by
  unfold applyInput at h
  cases x with
  | word w =>
    simp only [inputAction, wordAction] at h
    split at h
    · split_ifs at h
      · exact exec_sound h hs
      · cases h
    · cases h
  | operand r v =>
    cases h
    exact setOperand_sound hs r v
  | bufWrite a b =>
    obtain ⟨ha, rfl⟩ := store_next.1 h
    exact hs.writeBuf b ha
  | accept k => exact continueAccept_sound h hs

/-- Every step keeps the invariant, and an operational LCD operational. -/
theorem step_sound {op : Prop} {s t : State} (h : step s = .next t) (hi : Inv s) (ho : op → s.lcd.top = .operational) :
    Inv t ∧ (op → t.lcd.top = .operational) := by
  obtain ⟨hc, hcases⟩ := step_next h
  obtain ⟨-, -, -, -, -, hr, -⟩ := configOk_iff.1 hc
  have hs : Sound op s := (sound_iff hr).2 ⟨hi, ho⟩
  have ht : Sound op t := by
    obtain ⟨-, rfl⟩ | ⟨x, rest, -, h⟩ := hcases
    · exact hs
    · exact applyInput_sound h (hs.setEnv rest)
  exact (sound_iff ht.rows).1 ht

/-- Settles O58: the invariant alone of what every step keeps. -/
theorem stepKeepsInvariant : Obligations.StepKeepsInvariant :=
  fun _ _ hi h => (step_sound h hi False.elim).1

/-- Settles O59: a step keeps the invariant and, where the LCD was operational, that it is; Off is excluded by the
invariant, and so is a Busy slot before the end of init. -/
theorem operationalIsForEver : Obligations.OperationalIsForEver := by
  intro s t hi h
  obtain ⟨hit, hop⟩ := step_sound h hi id
  obtain ⟨-, hbusy, -, -, -, hoff, -⟩ := hit.1
  refine ⟨hoff, hop, fun hinit => ?_⟩
  cases hq : t.lcd.req.state with
  | idle => rfl
  | busy => exact absurd (hinit.symm.trans (hbusy hq).1) (by decide)

end Sys2Proof.Machine
end

section
/-! SUPPORT. Reset and the interrupt condition (10_state.md R37, R67). -/

namespace Sys2Proof.Machine

/-! ## Reset -/

theorem mem_resetWith_us {c : Config} {p : Port} {g : Nat → Byte} {m : Memory} {u : Usart} :
    u ∈ (State.resetWith c p g m).us ↔ ∃ k < c.nUsart, Usart.resetWith (g k) = u := by
  simp [State.resetWith]

theorem length_resetWith_us (c : Config) (p : Port) (g : Nat → Byte) (m : Memory) :
    (State.resetWith c p g m).us.length = c.nUsart := by
  simp [State.resetWith]

/-- Settles O8: the values of R67's table, each by computation, whatever the unspecified content of a USART is. -/
theorem resetLeavesTheListedValues : Obligations.ResetLeavesTheListedValues := by
  intro c p g m
  refine ⟨rfl, rfl, length_resetWith_us c p g m, fun u hu => ?_, rfl, rfl, rfl, rfl, rfl, rfl, rfl, rfl, rfl, rfl, rfl,
    rfl⟩
  obtain ⟨k, -, rfl⟩ := mem_resetWith_us.1 hu
  exact ⟨rfl, rfl, rfl, rfl, rfl, rfl, rfl, rfl, rfl⟩

theorem resetWith_lcdInv (c : Config) (p : Port) (g : Nat → Byte) (m : Memory) :
    LcdInv (State.resetWith c p g m) := by
  simp [LcdInv, State.resetWith, Lcd.reset]

theorem resetWith_powerOnInv {c : Config} (hc : configOk c = true) (p : Port) (g : Nat → Byte) (m : Memory) :
    PowerOnInv (State.resetWith c p g m) := by
  obtain ⟨-, -, -, hticks, -⟩ := configOk_iff.1 hc
  refine ⟨word_zero_le _, fun _ => ?_⟩
  show 0 < c.lcdPoweronTicks
  bv_omega

theorem usart_resetWith_inv (c : Config) (b : Byte) : UsartInv c (Usart.resetWith b) := by
  simp [UsartInv, Usart.resetWith, Slot.reset]

/-- Settles O9: nothing is pending, every slot is empty, and the threshold of PowerOn is not 0. -/
theorem resetMeetsInvariant : Obligations.ResetMeetsInvariant := by
  intro c p g m hc hm
  refine ⟨resetWith_lcdInv c p g m, resetWith_powerOnInv hc p g m, by simp [AcceptInv, State.resetWith],
    ⟨length_resetWith_us c p g m, fun u hu => ?_⟩, Nat.zero_le _, hm⟩
  obtain ⟨k, -, rfl⟩ := mem_resetWith_us.1 hu
  exact usart_resetWith_inv c (g k)

/-! ## The interrupt condition -/

theorem irqPending_iff {s : State} {i : Byte} {u : Usart} {c : UCfg} (hu : usart? s i = some u)
    (hc : s.cfg.ucfg[i.toNat]? = some c) :
    irqPending s i = true ↔
      c.nvicEn = true ∧ ((u.tc = true ∧ crBit u.cr 6 = true) ∨ (u.rxne = true ∧ crBit u.cr 5 = true)) := by
  have hu' : s.us[i.toNat]? = some u := hu
  simp [irqPending, nvicEn, hu', hc, Usart.txCause, Usart.rxCause, bitTcie, bitRxneie]

theorem execEvIrq_of_not_pending {s : State} {i : Byte} {u : Usart} (hu : usart? s i = some u)
    (hp : irqPending s i = false) : execEvIrq i s = .refused (.notEnabled "EV.IRQ") := by
  simp [execEvIrq, withUs_some hu, hp]

/-- Settles O37: the condition with the spec's bit positions, and the refusal where it does not hold. -/
theorem irqNeedsARoutedCause : Obligations.IrqNeedsARoutedCause := by
  intro s i u c hu hc
  exact ⟨irqPending_iff hu hc, execEvIrq_of_not_pending hu⟩

end Sys2Proof.Machine
end

section
/-! SUPPORT. What no operation writes, and what one operation alone writes (10_state.md R21 to R24, R31, R32, R66). -/

namespace Sys2Proof.Machine

/-! ## Updates that write no R0, no divisor and no stop bits -/

/-- `BRR` and `STOP` of a record (R31, R32). -/
def Usart.rate (u : Usart) : Half × BitVec 2 := (u.brr, u.stop)

/-- What every part of an operation but its return, US.INIT's programming and the end of a pass leaves alone: the
configuration, the port, every divisor with its stop bits, what `φ` sees of the scheduler, and the output so far, to
which it adds no RET. -/
structure Quiet {α : Type} (φ : Sched → α) (s t : State) : Prop where
  cfg : t.cfg = s.cfg
  port : t.port = s.port
  rate : ∀ j, (usart? t j).map Usart.rate = (usart? s j).map Usart.rate
  sch : φ t.sch = φ s.sch
  trace : ∃ tr, t.trace = s.trace ++ tr ∧ ∀ code, .ret code ∉ tr

section
variable {α : Type} {φ : Sched → α} {s t r : State}

/-- An update that leaves the port, the USARTs and the trace as they are. -/
theorem Quiet.of_eq (hc : t.cfg = s.cfg) (hp : t.port = s.port) (hu : t.us = s.us) (hs : φ t.sch = φ s.sch)
    (ht : t.trace = s.trace) : Quiet φ s t :=
  ⟨hc, hp, fun j => by simp [usart?, hu], hs, [], by simpa using ht, by simp⟩

theorem Quiet.refl (φ : Sched → α) (s : State) : Quiet φ s s := .of_eq rfl rfl rfl rfl rfl

theorem Quiet.trans (h1 : Quiet φ s t) (h2 : Quiet φ t r) : Quiet φ s r := by
  obtain ⟨tr1, ht1, hn1⟩ := h1.trace
  obtain ⟨tr2, ht2, hn2⟩ := h2.trace
  refine ⟨h2.cfg.trans h1.cfg, h2.port.trans h1.port, fun j => (h2.rate j).trans (h1.rate j), h2.sch.trans h1.sch,
    tr1 ++ tr2, by rw [ht2, ht1, List.append_assoc], fun code hm => ?_⟩
  rcases List.mem_append.1 hm with hm | hm
  · exact hn1 code hm
  · exact hn2 code hm

/-- An event other than a return. -/
theorem Quiet.emit {e : Event} (he : ∀ code, e ≠ .ret code) (h : Quiet φ s t) : Quiet φ s (emit e t) :=
  h.trans ⟨rfl, rfl, fun _ => rfl, rfl, [e], rfl, fun code hm => he code (List.mem_singleton.1 hm).symm⟩

theorem Quiet.setLcd (l : Lcd) (h : Quiet φ s t) : Quiet φ s (setLcd l t) := h.trans (.of_eq rfl rfl rfl rfl rfl)

theorem Quiet.setSch {c : Sched} (hc : φ c = φ t.sch) (h : Quiet φ s t) : Quiet φ s (setSch c t) :=
  h.trans (.of_eq rfl rfl rfl hc rfl)

theorem Quiet.setBuf (m : Memory) (h : Quiet φ s t) : Quiet φ s { t with buf := m } :=
  h.trans (.of_eq rfl rfl rfl rfl rfl)

/-- A change of one record; that it keeps the record's rate is mostly so by definition. -/
theorem Quiet.modUs {i : Byte} {f : Usart → Usart} (h : Quiet φ s t)
    (hf : ∀ u, (f u).rate = u.rate := by exact fun _ => rfl) : Quiet φ s (modUs i f t) := by
  refine h.trans ⟨rfl, rfl, fun j => ?_, rfl, [], by simp, by simp⟩
  by_cases hj : j = i
  · subst hj
    rw [usart?_modUs_same, Option.map_map]
    exact congrArg (Option.map · _) (funext hf)
  · rw [usart?_modUs_other f t hj]

/-! ## The LCD's step and the callbacks -/

theorem Quiet.emitPin (h : Quiet φ s t) : Quiet φ s (emitPin t) := h.emit (by simp)

theorem sendPhaseB_quiet (φ : Sched → α) (s : State) : Quiet φ s (sendPhaseB s) := by
  have he : ∀ code, latchEvent s.cfg.lcdMode s.lcd ≠ .ret code := by cases s.cfg.lcdMode <;> simp [latchEvent]
  exact ((((Quiet.refl φ s).setLcd _).emit he).emitPin).setLcd _

theorem sendThen_quiet (φ : Sched → α) (v : Byte) (rs : Bool) (f : Lcd → Lcd) (s : State) :
    Quiet φ s (sendThen v rs f s) := by
  unfold sendThen
  split
  · exact ((Quiet.refl φ s).setLcd _).emitPin
  · split_ifs
    · exact (sendPhaseB_quiet φ s).setLcd _
    · exact sendPhaseB_quiet φ s

theorem lcdRun_quiet (φ : Sched → α) (h : lcdRun s = .next t) : Quiet φ s t := by
  obtain ⟨l, -, rfl | rfl⟩ | ⟨v, rs, f, -, rfl⟩ := lcdRun_answer h
  · exact (Quiet.refl φ s).setLcd l
  · exact ((Quiet.refl φ s).setLcd l).emitPin
  · exact sendThen_quiet φ v rs f s

/-- A callback may count a tick, so of the scheduler only the accumulator is said to stay. -/
theorem invoke_quiet {cb : Word} (h : invoke cb s = .next t) : Quiet Sched.elapsedMs s t := by
  obtain rfl | ⟨-, rfl⟩ | ⟨-, h⟩ := invoke_cases h
  · exact .refl _ _
  · exact .of_eq rfl rfl rfl rfl rfl
  · exact lcdRun_quiet _ h

theorem completionCallback_quiet {e : Event} {cb : Word} (he : ∀ code, e ≠ .ret code)
    (h : completionCallback e cb s = .next t) : Quiet Sched.elapsedMs s t := by
  obtain ⟨-, rfl⟩ | ⟨-, h⟩ := completionCallback_cases h
  · exact .refl _ _
  · exact ((Quiet.refl _ s).emit he).trans (invoke_quiet h)

theorem rowStep_quiet {row : Runnable} (h : rowStep row s = .next t) : Quiet Sched.elapsedMs s t := by
  obtain ⟨m, rfl | hm, rfl⟩ := rowStep_next h
  · exact (Quiet.refl _ _).setSch rfl
  · exact (((Quiet.refl _ s).emit (by simp)).trans (invoke_quiet hm)).setSch rfl

theorem pollStep_quiet (s : State) : Quiet Sched.elapsedMs s (pollStep s) := by
  unfold pollStep
  split_ifs
  · exact (Quiet.refl _ s).setSch rfl
  · exact .refl _ s

/-! ## The handler -/

theorem txBranch_quiet {i : Byte} (h : txBranch i s = .next t) : Quiet Sched.elapsedMs s t := by
  obtain ⟨u, -, ⟨-, -, -, rfl⟩ | ⟨-, h⟩⟩ := txBranch_next h
  · exact (Quiet.refl _ s).modUs.emit (by simp)
  · exact (Quiet.refl _ s).modUs.trans (completionCallback_quiet (by simp) h)

theorem completeRx_quiet {i : Byte} {cb : Word} (h : completeRx i cb s = .next t) : Quiet Sched.elapsedMs s t :=
  (Quiet.refl _ s).modUs.trans (completionCallback_quiet (by simp) h)

theorem rxBranch_quiet {i : Byte} (h : rxBranch i s = .next t) : Quiet Sched.elapsedMs s t := by
  have stored (m : Memory) : Quiet Sched.elapsedMs s { modUs i rxStored s with buf := m } :=
    (Quiet.refl _ s).modUs.setBuf m
  obtain ⟨u, -, ⟨-, -, -, rfl⟩ | ⟨-, -, -, h⟩ | ⟨-, h⟩⟩ := rxBranch_next h
  · exact stored _
  · exact (stored _).trans (completeRx_quiet h)
  · exact completeRx_quiet h

theorem execEvIrq_quiet {i : Byte} (h : execEvIrq i s = .next t) : Quiet Sched.elapsedMs s t := by
  obtain ⟨-, m, htx, hrx⟩ := execEvIrq_next.1 h
  have hm : Quiet Sched.elapsedMs s m := by
    obtain ⟨-, -, ⟨-, h⟩ | ⟨-, rfl⟩⟩ := irqTx_next htx
    · exact txBranch_quiet h
    · exact .refl _ _
  obtain ⟨-, -, ⟨-, h⟩ | ⟨-, rfl⟩⟩ := irqRx_next hrx
  · exact hm.trans (rxBranch_quiet h)
  · exact hm

/-! ## Operations as a quiet part and at most one return -/

/-- A quiet update, and then at most one return. -/
def Answer (φ : Sched → α) (s t : State) : Prop := ∃ m, Quiet φ s m ∧ (t = m ∨ ∃ k, t = ret k m)

theorem Quiet.answer (h : Quiet φ s t) : Answer φ s t := ⟨t, h, .inl rfl⟩

theorem Quiet.ret (h : Quiet φ s t) (k : Word) : Answer φ s (ret k t) := ⟨t, h, .inr ⟨k, rfl⟩⟩

theorem acceptStepB_answer {a : Accept} (h : acceptStepB a s = .next t) : Answer φ s t := by
  cases a with
  | sendB i a0 =>
    obtain ⟨-, -, -, -, rfl⟩ := sendBStepB_next.1 h
    exact ((Quiet.refl φ s).modUs.emit (by simp)).ret _
  | recvB i a0 =>
    obtain ⟨-, -, rfl⟩ := recvBStepB_next.1 h
    exact (Quiet.refl φ s).modUs.answer
  | sendA i a0 a1 a2 =>
    obtain ⟨-, -, -, -, -, rfl⟩ := sendAStepB_next.1 h
    exact ((Quiet.refl φ s).modUs.emit (by simp)).ret _
  | recvA i a0 a1 a2 =>
    obtain ⟨-, -, rfl⟩ := recvAStepB_next.1 h
    exact (Quiet.refl φ s).modUs.ret _
  | lcdWrite row col a0 a1 =>
    cases h
    exact ((Quiet.refl φ s).setLcd _).ret _
  | lcdClear =>
    cases h
    exact ((Quiet.refl φ s).setLcd _).ret _

theorem AcceptAnswer.answer (h : AcceptAnswer s t) : Answer φ s t := by
  obtain ⟨k, rfl⟩ | ⟨a, -, rfl | h⟩ := h
  · exact (Quiet.refl φ s).ret k
  · exact Quiet.answer (.of_eq rfl rfl rfl rfl rfl)
  · exact acceptStepB_answer h

theorem recvBEnd_rate (fix : Bool) (u : Usart) : (recvBEnd fix u).rate = u.rate := by
  simp [Usart.rate, Usart.endRecvB]

theorem execEvPoll_answer {i : Byte} (h : execEvPoll i s = .next t) : Answer φ s t := by
  have ends {c : UsStatus} (h : finishRecvB i c s = .next t) : Answer φ s t := by
    obtain ⟨-, -, -, rfl⟩ := finishRecvB_next.1 h
    exact (((Quiet.refl φ s).modUs (recvBEnd_rate _)).setBuf _).ret _
  obtain ⟨-, -, -, ⟨-, h⟩ | ⟨-, -, h⟩ | ⟨-, -, rfl⟩⟩ := execEvPoll_next h
  · exact ends h
  · exact ends h
  · exact (Quiet.refl φ s).modUs.answer

theorem execEvRxByte_quiet {i d : Byte} (h : execEvRxByte i d s = .next t) : Quiet φ s t := by
  obtain ⟨-, -, ⟨-, rfl⟩ | ⟨-, -, rfl⟩ | ⟨-, -, rfl⟩⟩ := execEvRxByte_next h
  · exact .refl φ _
  · exact (Quiet.refl φ s).modUs
  · exact (Quiet.refl φ s).modUs.trans (.of_eq rfl rfl rfl rfl rfl)

theorem execSchInit_answer (h : execSchInit s = .next t) : Answer φ s t := by
  cases h
  refine Quiet.ret ?_ _
  exact ⟨rfl, rfl, fun _ => rfl, rfl, [.st (.setPeriodMilliseconds s.cfg.tickMs),
    .st (.registerCallback s.cfg.schTick s.cfg.schSlot)], by simp, by simp⟩

/-- The operations that leave the whole of the scheduler alone, US.INIT apart: `exec_answer_of_leavesSched` holds of
them for every `φ`. -/
def leavesSched : Instr → Bool
  | .schStart => false
  | .usInit => false
  | .evTick => false
  | .evSchStep => false
  | .evIrq _ => false
  | _ => true

theorem exec_answer_of_leavesSched {c : Instr} (hc : leavesSched c = true) (h : exec c s = .next t) :
    Answer φ s t := by
  cases c with
  | schInit => exact execSchInit_answer h
  | usSendB i => exact (execUsSendB_answer h).answer
  | usRecvB i => exact (execUsRecvB_answer h).answer
  | usSendA i => exact (execUsSendA_answer h).answer
  | usRecvA i => exact (execUsRecvA_answer h).answer
  | lcdWrite row col => exact (execLcdWrite_answer h).answer
  | lcdClear => exact (execLcdClear_answer h).answer
  | evTxDone i =>
    obtain ⟨-, -, -, rfl⟩ := execEvTxDone_next.1 h
    exact (Quiet.refl φ s).modUs.answer
  | evRxByte i d => exact (execEvRxByte_quiet h).answer
  | evLcdRun => exact (lcdRun_quiet φ h).answer
  | evPoll i => exact execEvPoll_answer h
  | schStart => cases hc
  | usInit => cases hc
  | evTick => cases hc
  | evSchStep => cases hc
  | evIrq i => cases hc

end

/-- Every operation is a quiet update with at most one return, but for US.INIT, which writes divisors, and the end of a
pass, which writes the accumulator. -/
theorem exec_answer {c : Instr} {s t : State} (h : exec c s = .next t) :
    Answer Sched.elapsedMs s t ∨ (c = .usInit ∧ execUsInit s = .next t) ∨
      (c = .evSchStep ∧ s.sch.phase = .pass ∧ s.sch.idx = s.cfg.nRun ∧ t = passEnd s) := by
  cases hc : leavesSched c with
  | true => exact .inl (exec_answer_of_leavesSched hc h)
  | false =>
    cases c with
    | usInit => exact .inr (.inl ⟨rfl, h⟩)
    | schStart =>
      obtain ⟨-, rfl⟩ := execSchStart_next h
      refine .inl (Quiet.answer (Quiet.setSch rfl ?_))
      exact ⟨rfl, rfl, fun _ => rfl, rfl, [.st (.start s.cfg.stClkSrc)], by simp, by simp⟩
    | evTick =>
      obtain ⟨-, m, n, h0, h1, h2⟩ := execEvTick_next h
      exact .inl (((invoke_quiet h0).trans (invoke_quiet h1)).trans (invoke_quiet h2)).answer
    | evSchStep =>
      obtain ⟨-, rfl⟩ | ⟨hp, ⟨r, -, h⟩ | ⟨hi, rfl⟩⟩ := execEvSchStep_next h
      · exact .inl (pollStep_quiet s).answer
      · exact .inl (rowStep_quiet h).answer
      · exact .inr (.inr ⟨rfl, hp, hi, rfl⟩)
    | evIrq i => exact .inl (execEvIrq_quiet h).answer
    | _ => cases hc

/-! ## What no operation, or one alone, writes -/

/-- Settles O20: only the end of a pass is not quiet on the accumulator. -/
theorem elapsedAdvancesOnlyAtPassEnd : Obligations.ElapsedAdvancesOnlyAtPassEnd := by
  intro c s t h
  obtain ⟨m, hm, rfl | ⟨k, rfl⟩⟩ | ⟨-, h⟩ | ⟨hc, hp, hi, rfl⟩ := exec_answer h
  · exact .inl hm.sch
  · exact .inl hm.sch
  · obtain ⟨k, rfl⟩ | ⟨k, rfl⟩ := execUsInit_next h
    · exact .inl rfl
    · exact .inl rfl
  · exact .inr ⟨hc, hp, hi, rfl⟩

/-- Settles O45: of the operations only US.INIT is not quiet on the divisors. -/
theorem onlyUsInitWritesBrrAndStop : Obligations.OnlyUsInitWritesBrrAndStop := by
  intro c s t i u v hc h hu hv
  have hrate : (usart? t i).map Usart.rate = (usart? s i).map Usart.rate := by
    obtain ⟨m, hm, rfl | ⟨k, rfl⟩⟩ | ⟨hc', -⟩ | ⟨-, -, -, rfl⟩ := exec_answer h
    · exact hm.rate i
    · exact hm.rate i
    · exact absurd hc' hc
    · rfl
  simpa [hu, hv, Usart.rate] using hrate

/-- What O56 says of a next state: the block writes R0 alone of the port, and R0 by a return alone, which the trace
shows. -/
abbrev Recorded (s t : State) : Prop :=
  SameOperands s t ∧ t.cfg = s.cfg ∧ ∃ tr, t.trace = s.trace ++ tr ∧
    (∀ code, .ret code ∈ tr → t.port.r0 = code) ∧ ((∀ code, .ret code ∉ tr) → t.port.r0 = s.port.r0)

theorem recorded_of_ret {s m : State} (hp : m.port = s.port) (hc : m.cfg = s.cfg) {tr : List Event}
    (ht : m.trace = s.trace ++ tr) (hn : ∀ code, .ret code ∉ tr) (k : Word) : Recorded s (ret k m) := by
  refine ⟨by simp [SameOperands, hp], hc, tr ++ [.ret k], by simp [ht], ?_, fun h => absurd (by simp) (h k)⟩
  intro code hm
  simpa [hn code, eq_comm] using hm

theorem Answer.recorded {α : Type} {φ : Sched → α} {s t : State} (h : Answer φ s t) : Recorded s t := by
  obtain ⟨m, hm, h⟩ := h
  obtain ⟨tr, ht, hn⟩ := hm.trace
  obtain rfl | ⟨k, rfl⟩ := h
  · exact ⟨by simp [SameOperands, hm.port], hm.cfg, tr, ht, fun code hc => absurd hc (hn code),
      fun _ => by rw [hm.port]⟩
  · exact recorded_of_ret hm.port hm.cfg ht hn k

/-- Settles O56: a quiet part adds no return to the trace, and at most one return follows it. -/
theorem operandsAndConfigurationAreNeverWritten : Obligations.OperandsAndConfigurationAreNeverWritten := by
  intro c s t h
  obtain h | ⟨-, h⟩ | ⟨-, -, -, rfl⟩ := exec_answer h
  · exact h.recorded
  · obtain ⟨k, rfl⟩ | ⟨k, rfl⟩ := execUsInit_next h
    · exact recorded_of_ret rfl rfl (List.append_nil _).symm (by simp) k
    · exact recorded_of_ret (m := { s with us := programAll s.cfg.ucfg s.us }) rfl rfl (List.append_nil _).symm
        (by simp) k
  · exact ⟨⟨rfl, rfl, rfl⟩, rfl, [], (List.append_nil _).symm, by simp, fun _ => rfl⟩

/-- EV.SCHSTEP takes a pending tick in Poll, and otherwise leaves the counter to the row's callback. -/
theorem execEvSchStep_pending {s t : State} (hr : ∀ r ∈ s.cfg.run, r.cb ≠ s.cfg.schTick)
    (h : execEvSchStep s = .next t) :
    t.sch.pending = s.sch.pending ∨
      (s.sch.phase = .poll ∧ s.sch.pending ≠ 0 ∧ t.sch.pending = s.sch.pending - 1) := by
  obtain ⟨hp, rfl⟩ | ⟨-, ⟨r, hget, h⟩ | ⟨-, rfl⟩⟩ := execEvSchStep_next h
  · unfold pollStep
    split_ifs with h0
    · exact .inr ⟨hp, h0, rfl⟩
    · exact .inl rfl
  · left
    obtain ⟨m, rfl | hm, rfl⟩ := rowStep_next h
    · rfl
    · have hsch : m.sch = s.sch := (invoke_keeps hm).1 (hr r (List.mem_of_getElem? hget))
      simp [hsch]
  · exact .inl rfl

/-- Settles O19: apart from EV.SCHSTEP, the operations in question leave the pending counter alone. -/
theorem onlyPollDecrementsPending : Obligations.OnlyPollDecrementsPending := by
  intro c s t hr htick hirq h
  cases hc : leavesSched c with
  | true =>
    obtain ⟨m, hm, rfl | ⟨k, rfl⟩⟩ := exec_answer_of_leavesSched (φ := Sched.pending) hc h
    · exact .inl hm.sch
    · exact .inl hm.sch
  | false =>
    cases c with
    | schStart =>
      obtain ⟨-, rfl⟩ := execSchStart_next h
      exact .inl rfl
    | usInit =>
      obtain ⟨k, rfl⟩ | ⟨k, rfl⟩ := execUsInit_next h
      · exact .inl rfl
      · exact .inl rfl
    | evSchStep => exact (execEvSchStep_pending hr h).imp_right fun h => ⟨rfl, h⟩
    | evTick => exact absurd rfl htick
    | evIrq j => exact absurd rfl (hirq j)
    | _ => cases hc

end Sys2Proof.Machine
end

section
/-! SUPPORT. An access to BUF that the launch memory does not admit stops the step that makes it
(20_memory.md R70, R71, log 6). -/

namespace Sys2Proof.Machine

/-! ## The two accesses -/

/-- The null address is admitted by no launch memory (R70). -/
theorem admits_zero (c : Config) : admits c 0 = false := by
  simp [admits]

theorem load_unadmitted {s : State} {a : Word} (h : admits s.cfg a = false) :
    load s a = .fault (.bufNotAdmitted a) := by
  simp [load, h]

theorem store_unadmitted {s : State} {a : Word} (b : Byte) (h : admits s.cfg a = false) :
    store a b s = .fault (.bufNotAdmitted a) := by
  simp [store, h]

/-- The store of the byte just read from DR: reading DR leaves what the launch memory admits alone (R163). -/
theorem readDR_store_unadmitted {α : Type} {i : Byte} {s : State} {u : Usart} {a : Word} (hu : usart? s i = some u)
    (ha : admits s.cfg a = false) (f : State → Res α) :
    (andThen (readDR i s) fun r => andThen (store a r.1 r.2) f) = .fault (.bufNotAdmitted a) := by
  have hs : store a u.drRx (modUs i (fun u => { u with rxne := false }) s) = .fault (.bufNotAdmitted a) :=
    store_unadmitted _ ha
  simp only [readDR, withUs_some hu, andThen_next, hs, andThen_fault]

/-! ## The send commands -/

theorem acceptOrHold_of_atomic {s : State} (h : s.cfg.acceptAtomic = true) (a : Accept) (b : State → Res State) :
    acceptOrHold a b s = b s :=
  if_pos h

/-- US.SENDB past its checks is its step B (R171, R173). -/
theorem execUsSendB_of_checked {i : Byte} {s : State} {u : Usart} (hu : usart? s i = some u)
    (hat : s.cfg.acceptAtomic = true) (h0 : s.port.a0 ≠ 0) (hidle : u.tx.state = .idle) :
    execUsSendB i s = sendBStepB i s.port.a0 s := by
  have hc : transferCheck (nullBlocking s) i Usart.tx s = none :=
    transferCheck_none.2 ⟨decide_eq_false h0, u, hu, hidle⟩
  simp only [execUsSendB, hc, acceptOrHold_of_atomic hat, byteAddr]

/-- US.SENDA past its checks is its step B (R171, R182). -/
theorem execUsSendA_of_checked {i : Byte} {s : State} {u : Usart} (hu : usart? s i = some u)
    (hat : s.cfg.acceptAtomic = true) (h0 : s.port.a0 ≠ 0) (h2 : s.port.a2 ≠ 0) (hidle : u.tx.state = .idle) :
    execUsSendA i s = sendAStepB i s.port.a0 s.port.a1 s.port.a2 s := by
  have hc : transferCheck (nullAsync s) i Usart.tx s = none :=
    transferCheck_none.2 ⟨by rw [nullAsync, decide_eq_false h0, decide_eq_false h2, Bool.or_false], u, hu, hidle⟩
  simp only [execUsSendA, hc, acceptOrHold_of_atomic hat]

theorem sendBStepB_unadmitted {i : Byte} {a0 : Word} {s : State} {u : Usart} (hu : usart? s i = some u)
    (ha : admits s.cfg a0 = false) : sendBStepB i a0 s = .fault (.bufNotAdmitted a0) := by
  rw [sendBStepB, withUs_some hu, load_unadmitted ha, andThen_fault]

theorem sendAStepB_unadmitted {i : Byte} {a0 a1 a2 : Word} {s : State} {u : Usart} (hu : usart? s i = some u)
    (h1 : a1 ≠ 0) (ha : admits s.cfg a0 = false) : sendAStepB i a0 a1 a2 s = .fault (.bufNotAdmitted a0) := by
  have e : eagerAddr a0 = a0 := BitVec.add_zero a0
  rw [sendAStepB, withUs_some hu, if_neg h1, e, load_unadmitted ha, andThen_fault]

/-! ## The end of a blocking receive -/

theorem finishRecvB_unadmitted {i : Byte} {s : State} {u : Usart} (hu : usart? s i = some u)
    (ha : admits s.cfg u.rb.buf = false) (c : UsStatus) :
    finishRecvB i c s = .fault (.bufNotAdmitted u.rb.buf) := by
  rw [finishRecvB, withUs_some hu]
  exact readDR_store_unadmitted hu ha _

/-- A spin with the budget used up or a byte received ends the receive, with one code or the other (R177). -/
theorem execEvPoll_of_ending {i : Byte} {s : State} {u : Usart} (hu : usart? s i = some u)
    (hp : u.rb.phase = .spinning) (he : u.rb.spin = s.cfg.rxBudget ∨ u.rxne = true) :
    ∃ c, execEvPoll i s = finishRecvB i c s := by
  rw [execEvPoll, withUs_some hu, if_neg (not_not.2 hp)]
  by_cases hb : u.rb.spin = s.cfg.rxBudget
  · exact ⟨.timeOut, if_pos hb⟩
  · exact ⟨.ok, by rw [if_neg hb, if_pos (he.resolve_left hb)]⟩

/-! ## The character step -/

/-- An operational LCD with an outstanding write in Character runs the character step (R230, R242). -/
theorem execEvLcdRun_of_character {s : State} (ht : s.lcd.top = .operational) (hb : s.lcd.req.state = .busy)
    (hy : s.lcd.req.type = .write) (hw : s.lcd.wr = .character) : execEvLcdRun s = characterStep s := by
  simp only [execEvLcdRun, lcdRun, ht, requestStep, hb, hy, writeStep, hw]

theorem characterStep_unadmitted {s : State} (hlt : s.lcd.req.pos < s.lcd.req.len)
    (ha : admits s.cfg (charAddr s) = false) : characterStep s = .fault (.bufNotAdmitted (charAddr s)) := by
  rw [characterStep, if_pos hlt, load_unadmitted ha, andThen_fault]

/-! ## The interrupt handler -/

/-- A cause with its enable makes the interrupt pending (R37). -/
theorem irqPending_of_cause {i : Byte} {s : State} {u : Usart} (hu : usart? s i = some u) (hn : nvicEn s.cfg i = true)
    (hc : u.txCause = true ∨ u.rxCause = true) : irqPending s i = true := by
  have hu' : s.us[i.toNat]? = some u := hu
  simp [irqPending, hu', hn, hc]

/-- Under either gate a flag with its enable takes the branch (R190). -/
theorem gated_of_flag_enable (g : IrqGate) {flag enable : Bool} (hf : flag = true) (he : enable = true) :
    gated g flag enable = true := by
  cases g with
  | flagAndEnable => simp [gated, hf, he]
  | flagOnly => exact hf

theorem execEvIrq_of_pending {i : Byte} {s : State} {u : Usart} (hu : usart? s i = some u)
    (hp : irqPending s i = true) : execEvIrq i s = andThen (irqTx i s) (irqRx i) := by
  rw [execEvIrq, withUs_some hu, if_pos hp]

theorem txBranch_unadmitted {i : Byte} {s : State} {u : Usart} (hu : usart? s i = some u) (hlt : u.tx.pos < u.tx.size)
    (ha : admits s.cfg (txAddr u) = false) : txBranch i s = .fault (.bufNotAdmitted (txAddr u)) := by
  rw [txBranch, withUs_some hu, if_pos hlt, load_unadmitted ha, andThen_fault]

theorem rxBranch_unadmitted {i : Byte} {s : State} {u : Usart} (hu : usart? s i = some u) (hlt : u.rx.pos < u.rx.size)
    (ha : admits s.cfg (rxAddr u) = false) : rxBranch i s = .fault (.bufNotAdmitted (rxAddr u)) := by
  rw [rxBranch, withUs_some hu, if_pos hlt]
  exact readDR_store_unadmitted hu ha _

/-- A fault of the Tx branch is the fault of the whole handler run (R190). -/
theorem execEvIrq_of_tx_fault {i : Byte} {s : State} {u : Usart} {r : Fault} (hu : usart? s i = some u)
    (hn : nvicEn s.cfg i = true) (hf : u.tc = true) (he : crBit u.cr bitTcie = true)
    (hr : txBranch i s = .fault r) : execEvIrq i s = .fault r := by
  have hp : irqPending s i = true := irqPending_of_cause hu hn (.inl (by simp [Usart.txCause, hf, he]))
  rw [execEvIrq_of_pending hu hp, irqTx, withUs_some hu, if_pos (gated_of_flag_enable _ hf he), hr, andThen_fault]

/-- Where the Tx branch is not taken, a handler run for a received byte is the Rx branch (R190). -/
theorem execEvIrq_of_rx_only {i : Byte} {s : State} {u : Usart} (hu : usart? s i = some u)
    (hn : nvicEn s.cfg i = true) (htx : gated s.cfg.irqGate u.tc (crBit u.cr bitTcie) = false)
    (hf : u.rxne = true) (he : crBit u.cr bitRxneie = true) : execEvIrq i s = rxBranch i s := by
  have hp : irqPending s i = true := irqPending_of_cause hu hn (.inr (by simp [Usart.rxCause, hf, he]))
  have hskip : irqTx i s = .next s := by rw [irqTx, withUs_some hu, htx, if_neg Bool.false_ne_true]
  rw [execEvIrq_of_pending hu hp, hskip, andThen_next, irqRx, withUs_some hu, if_pos (gated_of_flag_enable _ hf he)]

/-! ## Every access -/

/-- Settles O57: under each clause's premises the operation comes to its one access to BUF, and the fault of that access
is the outcome of the whole step. -/
theorem unadmittedAccessIsStuck : Obligations.UnadmittedAccessIsStuck := by
  refine ⟨admits_zero, fun s i u hu hat => ⟨?send, ?poll, ?lcd, ?tx, ?rx⟩⟩
  case send =>
    intro h0 hidle ha
    exact ⟨(execUsSendB_of_checked hu hat h0 hidle).trans (sendBStepB_unadmitted hu ha), fun h1 h2 =>
      (execUsSendA_of_checked hu hat h0 h2 hidle).trans (sendAStepB_unadmitted hu h1 ha)⟩
  case poll =>
    intro hp he ha
    obtain ⟨c, hc⟩ := execEvPoll_of_ending hu hp he
    exact hc.trans (finishRecvB_unadmitted hu ha c)
  case lcd =>
    intro ht hb hy hw hlt ha
    exact (execEvLcdRun_of_character ht hb hy hw).trans (characterStep_unadmitted hlt ha)
  case tx =>
    intro hn hf he hlt ha
    exact execEvIrq_of_tx_fault hu hn hf he (txBranch_unadmitted hu hlt ha)
  case rx =>
    intro hn htx hf he hlt ha
    exact (execEvIrq_of_rx_only hu hn htx hf he).trans (rxBranch_unadmitted hu hlt ha)

end Sys2Proof.Machine
end

section
/-! SUPPORT. The decoder is the inverse of the encoder (30_encoding.md R101 to R103, R110), and the walk of the opcode
table finds the same operation: each row selects exactly the words laid out as its format says. -/

namespace Sys2Proof

/-! ## The decoder on the fields of a word -/

/-- A row answers its operation exactly when its must-be-zero fields are zero (R106). -/
theorem requireZero_eq_ok {w : Word} {fields : List Byte} {i j : Instr} :
    requireZero w fields i = .ok j ↔ (∀ b ∈ fields, b = 0) ∧ i = j := by
  simp only [requireZero, List.all_eq_true, beq_iff_eq]
  split_ifs with h
  · exact ⟨fun e => ⟨h, Except.ok.inj e⟩, fun e => congrArg Except.ok e.2⟩
  · exact ⟨nofun, fun e => absurd e.1 h⟩

theorem decodePlain_eq_ok {w : Word} {i j : Instr} :
    decodePlain w i = .ok j ↔ (instOf w = 0 ∧ rowOf w = 0 ∧ lowOf w = 0) ∧ i = j := by
  simp [decodePlain, requireZero_eq_ok]

theorem decodeInst_eq_ok {w : Word} {f : Byte → Instr} {j : Instr} :
    decodeInst w f = .ok j ↔ (rowOf w = 0 ∧ lowOf w = 0) ∧ f (instOf w) = j := by
  simp [decodeInst, requireZero_eq_ok]

/-- A word is the layout of the values its fields have. -/
theorem wordOf_of_fields {w : Word} {u f : BitVec 4} {i r l : Byte} (hu : (unitOf w).toNat = u.toNat)
    (hf : (fnOf w).toNat = f.toNat) (hi : instOf w = i) (hr : rowOf w = r) (hl : lowOf w = l) :
    wordOf u f i r l = w := by
  rw [← BitVec.eq_of_toNat_eq hu, ← BitVec.eq_of_toNat_eq hf, ← hi, ← hr, ← hl, wordOf_fields]

/-- Every operand stands in a field of its own, so the decoder reads back what the encoder wrote. -/
theorem decode_encode (i : Instr) : decode (encode i) = .ok i := by
  cases i
  case schInit | schStart | usInit | lcdClear | evTick | evSchStep | evLcdRun => rfl
  case usSendB | usRecvB | usSendA | usRecvA | evTxDone | evIrq | evPoll =>
    simp [encode, decode, decodeInst_eq_ok]
  case lcdWrite | evRxByte => simp [encode, decode, requireZero_eq_ok]

/-- What the decoder can answer, said once: the operation whose own word it was given. -/
theorem encode_of_decode_ok {w : Word} {i : Instr} (h : decode w = .ok i) : encode i = w := by
  unfold decode at h
  split at h
  case h_1 hu hf | h_2 hu hf | h_3 hu hf | h_9 hu hf | h_10 hu hf | h_11 hu hf | h_15 hu hf =>
    obtain ⟨⟨hi, hr, hl⟩, rfl⟩ := decodePlain_eq_ok.1 h
    exact wordOf_of_fields hu hf hi hr hl
  case h_4 hu hf | h_5 hu hf | h_6 hu hf | h_7 hu hf | h_12 hu hf | h_14 hu hf | h_16 hu hf =>
    obtain ⟨⟨hr, hl⟩, rfl⟩ := decodeInst_eq_ok.1 h
    exact wordOf_of_fields hu hf rfl hr hl
  case h_8 hu hf =>
    obtain ⟨hz, rfl⟩ := requireZero_eq_ok.1 h
    exact wordOf_of_fields hu hf (hz _ (by simp)) rfl rfl
  case h_13 hu hf =>
    obtain ⟨hz, rfl⟩ := requireZero_eq_ok.1 h
    exact wordOf_of_fields hu hf rfl (hz _ (by simp)) rfl
  case h_17 | h_18 | h_19 | h_20 | h_21 => cases h

/-- A word denotes an operation exactly when it is that operation's own word. -/
theorem decode_eq_ok_iff {w : Word} {i : Instr} : decode w = .ok i ↔ encode i = w :=
  ⟨encode_of_decode_ok, fun h => h ▸ decode_encode i⟩

/-- Settles O1: the round trip holds operation by operation. -/
theorem encodeThenDecodeReturnsInstr : Obligations.EncodeThenDecodeReturnsInstr :=
  decode_encode

/-! ## The rows of the opcode table -/

/-- A mask over a whole unit and function tests those two fields and the masked bits of the operand fields. -/
theorem and_layout_eq_iff {w : Word} {u f : BitVec 4} {mi mr ml : Byte} :
    w &&& wordOf 0xF 0xF mi mr ml = wordOf u f 0 0 0 ↔
      unitOf w = u ∧ fnOf w = f ∧ instOf w &&& mi = 0 ∧ rowOf w &&& mr = 0 ∧ lowOf w &&& ml = 0 := by
  rw [← wordOf_inj, ← and_ones4 (unitOf w), ← and_ones4 (fnOf w), ← wordOf_and, wordOf_fields]

/-- A row without operands selects one word. -/
theorem encode_of_selected_plain {w : Word} {i : Instr} (h : w &&& 0xFFFFFFFF = encode i) : ∃ i, encode i = w :=
  ⟨i, h.symm.trans BitVec.and_allOnes⟩

/-- A row with an `inst` operand selects the words of its operation. -/
theorem encode_of_selected_inst {w : Word} {u f : BitVec 4} {g : Byte → Instr}
    (hg : ∀ j, encode (g j) = wordOf u f j 0 0) (h : w &&& 0xFF00FFFF = wordOf u f 0 0 0) : ∃ i, encode i = w := by
  rw [mask_inst, and_layout_eq_iff, and_ones8, and_ones8] at h
  obtain ⟨rfl, rfl, -, hr, hl⟩ := h
  exact ⟨g (instOf w), (hg _).trans (wordOf_of_fields rfl rfl rfl hr hl)⟩

theorem encode_of_selected_lcdWrite {w : Word} (h : w &&& 0xFFFF0000 = wordOf 0x3 0 0 0 0) : ∃ i, encode i = w := by
  rw [mask_row_col, and_layout_eq_iff, and_ones8] at h
  obtain ⟨hu, hf, hi, -, -⟩ := h
  exact ⟨.lcdWrite (rowOf w) (lowOf w), wordOf_of_fields (congrArg _ hu) (congrArg _ hf) hi rfl rfl⟩

theorem encode_of_selected_evRxByte {w : Word} (h : w &&& 0xFF00FF00 = wordOf 0xE 3 0 0 0) : ∃ i, encode i = w := by
  rw [mask_data, and_layout_eq_iff, and_ones8] at h
  obtain ⟨hu, hf, -, hr, -⟩ := h
  exact ⟨.evRxByte (instOf w) (lowOf w), wordOf_of_fields (congrArg _ hu) (congrArg _ hf) rfl hr rfl⟩

/-- A word that a row selects is the word of an operation. -/
theorem encode_of_selected {w : Word} {r : OpcodeRow} (hr : r ∈ opcodeRows) (h : w &&& r.mask = r.pattern) :
    ∃ i, encode i = w := by
  simp only [opcodeRows, List.mem_cons, List.not_mem_nil, or_false] at hr
  obtain rfl | rfl | rfl | rfl | rfl | rfl | rfl | rfl | rfl | rfl | rfl | rfl | rfl | rfl | rfl | rfl := hr
  · exact encode_of_selected_plain (i := .schInit) h
  · exact encode_of_selected_plain (i := .schStart) h
  · exact encode_of_selected_plain (i := .usInit) h
  · exact encode_of_selected_inst (g := .usSendB) (fun _ => rfl) h
  · exact encode_of_selected_inst (g := .usRecvB) (fun _ => rfl) h
  · exact encode_of_selected_inst (g := .usSendA) (fun _ => rfl) h
  · exact encode_of_selected_inst (g := .usRecvA) (fun _ => rfl) h
  · exact encode_of_selected_lcdWrite h
  · exact encode_of_selected_plain (i := .lcdClear) h
  · exact encode_of_selected_plain (i := .evTick) h
  · exact encode_of_selected_plain (i := .evSchStep) h
  · exact encode_of_selected_inst (g := .evTxDone) (fun _ => rfl) h
  · exact encode_of_selected_evRxByte h
  · exact encode_of_selected_inst (g := .evIrq) (fun _ => rfl) h
  · exact encode_of_selected_plain (i := .evLcdRun) h
  · exact encode_of_selected_inst (g := .evPoll) (fun _ => rfl) h

/-- The row of an operation selects its word (R103). -/
theorem exists_row (i : Instr) : ∃ r ∈ opcodeRows, r.mnemonic = i.mnemonic ∧ encode i &&& r.mask = r.pattern := by
  cases i with
  | schInit => exact Laws.TableRow.schInit
  | schStart => exact Laws.TableRow.schStart
  | usInit => exact Laws.TableRow.usInit
  | usSendB j => exact Laws.TableRow.usSendB j
  | usRecvB j => exact Laws.TableRow.usRecvB j
  | usSendA j => exact Laws.TableRow.usSendA j
  | usRecvA j => exact Laws.TableRow.usRecvA j
  | lcdWrite row col => exact Laws.TableRow.lcdWrite row col
  | lcdClear => exact Laws.TableRow.lcdClear
  | evTick => exact Laws.TableRow.evTick
  | evSchStep => exact Laws.TableRow.evSchStep
  | evTxDone j => exact Laws.TableRow.evTxDone j
  | evRxByte j d => exact Laws.TableRow.evRxByte j d
  | evIrq j => exact Laws.TableRow.evIrq j
  | evLcdRun => exact Laws.TableRow.evLcdRun
  | evPoll j => exact Laws.TableRow.evPoll j

/-- Two rows of the table differ in a bit that both masks keep. -/
theorem opcodeRows_differ : ∀ r ∈ opcodeRows, ∀ q ∈ opcodeRows,
    r.pattern &&& q.mask = q.pattern &&& r.mask → r = q := by
  decide

theorem opcodeRows_disjoint {w : Word} {r q : OpcodeRow} (hr : r ∈ opcodeRows) (hq : q ∈ opcodeRows)
    (hwr : w &&& r.mask = r.pattern) (hwq : w &&& q.mask = q.pattern) : r = q := by
  apply opcodeRows_differ r hr q hq
  rw [← hwr, ← hwq, BitVec.and_assoc, BitVec.and_assoc, BitVec.and_comm r.mask]

/-- The walk of the table ends at the one row that selects the word (R110). -/
theorem mnemonicInTable_of_selected {w : Word} {r : OpcodeRow} (hr : r ∈ opcodeRows) (h : w &&& r.mask = r.pattern) :
    mnemonicInTable w = some r.mnemonic := by
  unfold mnemonicInTable
  cases hfind : opcodeRows.find? (fun r => w &&& r.mask == r.pattern) with
  | none => exact absurd h (by simpa using List.find?_eq_none.1 hfind r hr)
  | some q =>
    have hq : w &&& q.mask = q.pattern := by simpa using List.find?_some hfind
    rw [opcodeRows_disjoint hr (List.mem_of_find?_eq_some hfind) h hq]
    rfl

theorem mnemonicInTable_eq_none {w : Word} :
    mnemonicInTable w = none ↔ ∀ r ∈ opcodeRows, w &&& r.mask ≠ r.pattern := by
  simp [mnemonicInTable]

/-- The decoder refuses exactly the words that no row selects (R106). -/
theorem decode_refuses_iff {w : Word} :
    (decode w).toOption = none ↔ ∀ r ∈ opcodeRows, w &&& r.mask ≠ r.pattern := by
  constructor
  · intro hnone r hr h
    obtain ⟨i, rfl⟩ := encode_of_selected hr h
    rw [decode_encode] at hnone
    cases hnone
  · intro hno
    cases hd : decode w with
    | error e => rfl
    | ok i =>
      obtain ⟨r, hr, -, h⟩ := exists_row i
      exact absurd (encode_of_decode_ok hd ▸ h) (hno r hr)

/-- The table's mnemonic for a word is that of the operation the decoder answers. -/
theorem mnemonicInTable_eq_decode (w : Word) : mnemonicInTable w = (decode w).toOption.map Instr.mnemonic := by
  cases hd : decode w with
  | error e => exact mnemonicInTable_eq_none.2 (decode_refuses_iff.1 (by rw [hd]; rfl))
  | ok i =>
    obtain rfl := encode_of_decode_ok hd
    obtain ⟨r, hr, hm, h⟩ := exists_row i
    rw [mnemonicInTable_of_selected hr h, hm]
    rfl

/-- Settles O2: the decoder's answer names the row the walk ends at, and no other word has that answer. -/
theorem decodeIsTheOpcodeTable : Obligations.DecodeIsTheOpcodeTable :=
  ⟨fun w => ⟨mnemonicInTable_eq_decode w, fun _ => encode_of_decode_ok⟩, fun _ _ hr _ hq => opcodeRows_disjoint hr hq⟩

/-- Settles O3: each listed word is evaluated. -/
theorem listedWordsDecodeAsListed : Obligations.ListedWordsDecodeAsListed := by
  simp only [Obligations.ListedWordsDecodeAsListed, List.forall_mem_cons, List.not_mem_nil, false_imp_iff, implies_true,
    and_true]
  and_intros <;> decide

end Sys2Proof
end

section
/-! SUPPORT. A step on a word: the operation it denotes, or the refusal of an illegal word (30_encoding.md R100, R106,
R110). -/

namespace Sys2Proof.Machine

theorem applyInput_word {w : Word} {i : Instr} {s : State} (hd : decode w = .ok i) (hwf : i.wf s.cfg.nUsart = true) :
    applyInput (.word w) s = exec i s := by
  simp [applyInput, inputAction, wordAction, hd, hwf, perform]

/-- A word that denotes no operation of this machine has no step (R106, D4). -/
theorem applyInput_word_illegal {w : Word} {s : State} (h : ∀ i, decode w = .ok i → i.wf s.cfg.nUsart = false) :
    applyInput (.word w) s = .refused (.illegalWord w) := by
  cases hd : decode w with
  | error e => simp [applyInput, inputAction, wordAction, hd, perform]
  | ok i => simp [applyInput, inputAction, wordAction, hd, h i hd, perform]

/-- Settles O5: the oldest input is taken, and a word that denotes an operation of this machine runs it. -/
theorem stepRunsDecodedWord : Obligations.StepRunsDecodedWord :=
  fun _ _ _ _ hc he hd hwf => (step_of_input hc he).trans (applyInput_word hd hwf)

/-- Settles O4: the first kind of word is refused by the decoder, the second denotes an event of no agent. -/
theorem illegalWordIsRefused : Obligations.IllegalWordIsRefused := by
  intro s w rest hc he h
  rw [step_of_input hc he]
  apply applyInput_word_illegal
  intro i hd
  obtain hrow | ⟨j, d, hj, hev⟩ := h
  · have hnone := decode_refuses_iff.2 hrow
    rw [hd] at hnone
    cases hnone
  · simp only [hd, List.mem_cons, List.not_mem_nil, or_false, Except.ok.injEq] at hev
    obtain rfl | rfl | rfl | rfl := hev <;> exact decide_eq_false (Nat.not_lt.2 hj)

end Sys2Proof.Machine
end

section
/-! SUPPORT. The scheduler's operations in each of their cases, and a whole pass (40_scheduler.md R131 to R142). -/

namespace Sys2Proof.Machine

/-! ## SCH.INIT and SCH.START -/

theorem stSetCb_eq (fn : Word) (k : Fin 3) (t : SysTick) :
    stSetCb fn k t = { t with
      cb0 := if k = 0 then fn else t.cb0
      cb1 := if k = 1 then fn else t.cb1
      cb2 := if k = 2 then fn else t.cb2 } := by
  match k with
  | 0 => rfl
  | 1 => rfl
  | 2 => rfl

/-- Settles O11: the callback goes to the slot of the configuration, and the three events follow one another. -/
theorem schInitRegistersTheTick : Obligations.SchInitRegistersTheTick := by
  intro s
  simp [exec, execSchInit, stRegister, stSetCb_eq, stSetPeriod, ret, emit, schCode]

/-- Settles O12: the two cases of the guard on the phase. -/
theorem schStartArmsTheTimer : Obligations.SchStartArmsTheTimer :=
  fun _ => ⟨fun h => if_pos h, fun h => if_neg h⟩

/-! ## EV.TICK -/

/-- A null or opaque callback changes nothing in its step (R286, log 19). -/
theorem invoke_of_opaque {cb : Word} {s : State} (h1 : cb ≠ s.cfg.schTick) (h2 : cb ≠ s.cfg.cbLcd) :
    invoke cb s = .next s := by
  rw [invoke, if_neg h1, if_neg h2, ite_self]

/-- The state with `n` more pending ticks. -/
def addPending (n : Word) (s : State) : State := { s with sch := { s.sch with pending := s.sch.pending + n } }

/-- A callback other than the LCD runnable counts one tick or none (R286). -/
theorem invoke_of_ne_cbLcd {cb : Word} {s : State} (h0 : s.cfg.schTick ≠ 0) (h : cb ≠ s.cfg.cbLcd) :
    invoke cb s = .next (addPending (if cb = s.cfg.schTick then 1 else 0) s) := by
  by_cases h1 : cb = s.cfg.schTick
  · subst h1
    rw [invoke, if_neg h0, if_pos rfl, if_pos rfl]
    rfl
  · rw [invoke_of_opaque h1 h, if_neg h1]
    simp [addPending]

/-- While the timer runs, a tick is the three callbacks in slot order (R135). -/
theorem execEvTick_of_callbacks {s s1 s2 s3 : State} (hr : s.st.running = true) (h1 : invoke s.st.cb0 s = .next s1)
    (h2 : invoke s.st.cb1 s1 = .next s2) (h3 : invoke s.st.cb2 s2 = .next s3) : execEvTick s = .next s3 := by
  rw [execEvTick, if_pos hr, tickCallbacks, h1, andThen_next, h2, andThen_next, h3]

/-- Settles O14: the callbacks in sequence, each counting one tick or none where none is the LCD runnable. -/
theorem tickInvokesCallbacksInSlotOrder : Obligations.TickInvokesCallbacksInSlotOrder := by
  intro s
  refine ⟨fun hr => if_neg (ne_true_of_eq_false hr), fun hr _ _ _ => execEvTick_of_callbacks hr,
    fun hr h0 hc0 hc1 hc2 => ?_⟩
  exact execEvTick_of_callbacks hr (invoke_of_ne_cbLcd h0 hc0) (invoke_of_ne_cbLcd h0 hc1) (invoke_of_ne_cbLcd h0 hc2)

/-! ## EV.SCHSTEP -/

theorem execEvSchStep_of_stopped {s : State} (hp : s.sch.phase = .stopped) :
    execEvSchStep s = .refused (.notEnabled "EV.SCHSTEP") := by
  simp only [execEvSchStep, hp]

theorem execEvSchStep_of_poll {s : State} (hp : s.sch.phase = .poll) : execEvSchStep s = .next (pollStep s) := by
  simp only [execEvSchStep, hp]

theorem execEvSchStep_of_row {s : State} {r : Runnable} (hp : s.sch.phase = .pass)
    (hr : s.cfg.run[s.sch.idx]? = some r) : execEvSchStep s = rowStep r s := by
  simp only [execEvSchStep, hp, hr]

theorem execEvSchStep_of_last {s : State} (hp : s.sch.phase = .pass) (hi : s.sch.idx = s.cfg.nRun) :
    execEvSchStep s = .next (passEnd s) := by
  have hr : s.cfg.run[s.sch.idx]? = none := List.getElem?_eq_none hi.ge
  simp only [execEvSchStep, hp, hr, if_pos hi]

/-- Settles O15: the step's cases by phase, the pending counter and the index. -/
theorem schStepBeginsAndEndsPasses : Obligations.SchStepBeginsAndEndsPasses := by
  refine fun s => ⟨execEvSchStep_of_stopped, fun hp h => ?_, fun hp h => ?_, execEvSchStep_of_last⟩
  · exact (execEvSchStep_of_poll hp).trans (congrArg Host.Outcome.next (if_pos h))
  · exact (execEvSchStep_of_poll hp).trans (congrArg Host.Outcome.next (if_neg (not_not.2 h)))

/-- A row whose period does not divide the accumulator is passed over (R138). -/
theorem rowStep_of_not_due {r : Runnable} {s : State} (hp : 0 < r.periodMs)
    (hd : s.sch.elapsedMs.toNat % r.periodMs ≠ 0) :
    rowStep r s = .next (setSch { s.sch with idx := s.sch.idx + 1 } s) := by
  simp [rowStep, dispatchRow, rowDue, hp.ne', hd]

/-- A row whose period divides the accumulator is dispatched (R138). -/
theorem rowStep_of_due {r : Runnable} {s t : State} (hp : 0 < r.periodMs)
    (hd : s.sch.elapsedMs.toNat % r.periodMs = 0) (ht : invoke r.cb (emit (.run s.sch.idx) s) = .next t) :
    rowStep r s = .next (setSch { t.sch with idx := s.sch.idx + 1 } t) := by
  simp [rowStep, dispatchRow, rowDue, hp.ne', hd, ht]

/-- Settles O16: in a pass the step is the row's, which is dispatched or not. -/
theorem schStepExaminesOneRow : Obligations.SchStepExaminesOneRow := by
  intro s r hp hr hpos
  have hrow : exec .evSchStep s = rowStep r s := execEvSchStep_of_row hp hr
  exact ⟨fun hd => hrow.trans (rowStep_of_not_due hpos hd), fun hd _ ht => hrow.trans (rowStep_of_due hpos hd ht)⟩

/-! ## A whole pass -/

/-- Whether row `k` of the table is due at the accumulator value `e` (R138). -/
def dueAt (c : Config) (e : Word) (k : Nat) : Bool := (c.run[k]?).any fun r => e.toNat % r.periodMs == 0

/-- The output of the `n` rows from row `k` on, examined at the accumulator value `e` (R138). -/
def runEvents (c : Config) (e : Word) (k n : Nat) : List Event := ((List.range' k n).filter (dueAt c e)).map .run

/-- Row `k` comes first. -/
theorem runEvents_succ (c : Config) (e : Word) (k n : Nat) :
    runEvents c e k (n + 1) = (if dueAt c e k then [.run k] else []) ++ runEvents c e (k + 1) n := by
  rw [runEvents, List.range'_succ, List.filter_cons]
  split_ifs <;> rfl

/-- The state after row `sch.idx`, whose callback is null or opaque, is examined. -/
def rowExamined (s : State) : State :=
  { s with
    sch := { s.sch with idx := s.sch.idx + 1 }
    trace := s.trace ++ if dueAt s.cfg s.sch.elapsedMs s.sch.idx then [.run s.sch.idx] else [] }

theorem execEvSchStep_of_opaque {s : State} {r : Runnable} (hp : s.sch.phase = .pass)
    (hr : s.cfg.run[s.sch.idx]? = some r) (hpos : 0 < r.periodMs) (h1 : r.cb ≠ s.cfg.schTick)
    (h2 : r.cb ≠ s.cfg.cbLcd) : execEvSchStep s = .next (rowExamined s) := by
  rw [execEvSchStep_of_row hp hr]
  by_cases hd : s.sch.elapsedMs.toNat % r.periodMs = 0
  · rw [rowStep_of_due hpos hd (invoke_of_opaque h1 h2)]
    simp [rowExamined, dueAt, hr, hd, setSch, emit]
  · rw [rowStep_of_not_due hpos hd]
    simp [rowExamined, dueAt, hr, hd, setSch]

/-- The state after a pass has examined its last `n` rows, all with null or opaque callbacks, and ended (R139). -/
def passed (n : Nat) (s : State) : State :=
  { s with
    sch := { s.sch with idx := s.cfg.nRun, phase := .poll, elapsedMs := s.sch.elapsedMs + s.cfg.tickMs }
    trace := s.trace ++ runEvents s.cfg s.sch.elapsedMs s.sch.idx n }

/-- The rest of a pass, from any of its rows on. -/
theorem execAll_evSchStep_pass (n : Nat) (s : State) (hp : s.sch.phase = .pass) (hn : s.sch.idx + n = s.cfg.nRun)
    (hrows : ∀ r ∈ s.cfg.run, 0 < r.periodMs ∧ r.cb ≠ s.cfg.schTick ∧ r.cb ≠ s.cfg.cbLcd) :
    execAll (List.replicate (n + 1) .evSchStep) s = .next (passed n s) := by
  induction n generalizing s with
  | zero =>
    have hlast : exec .evSchStep s = .next (passEnd s) := execEvSchStep_of_last hp hn
    simp [execAll, hlast, passed, runEvents, passEnd, setSch, ← hn]
  | succ n ih =>
    have hlt : s.sch.idx < s.cfg.nRun := by omega
    obtain ⟨hpos, h1, h2⟩ := hrows _ (List.getElem_mem hlt)
    have hrow : exec .evSchStep s = .next (rowExamined s) :=
      execEvSchStep_of_opaque hp (List.getElem?_eq_getElem hlt) hpos h1 h2
    have hrest : (rowExamined s).sch.idx + n = s.cfg.nRun := by
      show s.sch.idx + 1 + n = s.cfg.nRun
      omega
    rw [List.replicate_succ, execAll, hrow, andThen_next, ih (rowExamined s) hp hrest hrows]
    simp [passed, rowExamined, runEvents_succ]

/-- Settles O17: the rest of a pass, from row 0. -/
theorem onePassDispatchesTheDueRowsInOrder : Obligations.OnePassDispatchesTheDueRowsInOrder := by
  intro s hp hi hrows
  rw [execAll_evSchStep_pass s.cfg.nRun s hp (by rw [hi, Nat.zero_add]) hrows, passed, runEvents, hi,
    ← List.range_eq_range']
  rfl

/-! ## Periodicity -/

theorem rowDue_ofNat {e : Nat} (p : Nat) (he : e < 2 ^ 32) : rowDue (BitVec.ofNat 32 e) p = true ↔ p ∣ e := by
  rw [rowDue, BitVec.toNat_ofNat, Nat.mod_eq_of_lt he, decide_eq_true_iff, Nat.dvd_iff_mod_eq_zero]

/-- Settles O18: a multiple of T is one of P exactly when it is one of their least common multiple. -/
theorem rowIsDueEveryLcmOverTickPasses : Obligations.RowIsDueEveryLcmOverTickPasses := by
  intro n p t _ ht hlt
  rw [rowDue_ofNat p hlt]
  calc p ∣ n * t ↔ Nat.lcm p t ∣ n * t := by simp [Nat.lcm_dvd_iff]
    _ ↔ Nat.lcm p t / t * t ∣ n * t := by rw [Nat.div_mul_cancel (Nat.dvd_lcm_right p t)]
    _ ↔ Nat.lcm p t / t ∣ n := Nat.mul_dvd_mul_iff_right ht

end Sys2Proof.Machine
end

section
/-! SUPPORT. What ticks, scheduler steps and invocations of the LCD runnable leave alone (40_scheduler.md, R230,
R286). -/

namespace Sys2Proof.Machine

/-! ## The LCD's step keeps what a request asks for -/

/-- What a request asks for, as LCD.WRITE filled it in (R47, R246). -/
def LcdReq.asked (r : LcdReq) : Word × Word × Byte × Byte := (r.ptr, r.len, r.row, r.col)

theorem sendThen_asked {v : Byte} {rs : Bool} {f : Lcd → Lcd} {s : State}
    (hf : ∀ l, (f l).req.asked = l.req.asked) : (sendThen v rs f s).lcd.req.asked = s.lcd.req.asked := by
  unfold sendThen
  split
  · rfl
  · split_ifs
    · exact hf (sendPhaseB s).lcd
    · rfl

theorem initStep_asked (s : State) : (initStep s).lcd.req.asked = s.lcd.req.asked := by
  unfold initStep
  split
  case h_1 => rfl
  case h_6 => rfl
  all_goals exact sendThen_asked fun _ => rfl

theorem clearStep_asked (s : State) : (clearStep s).lcd.req.asked = s.lcd.req.asked := by
  unfold clearStep
  split
  · rfl
  · exact sendThen_asked fun _ => rfl
  · rfl

theorem writeStep_asked {s t : State} (h : writeStep s = .next t) : t.lcd.req.asked = s.lcd.req.asked := by
  unfold writeStep at h
  split at h
  · cases h
    rfl
  · unfold setPositionStep at h
    split at h
    · cases h
      exact sendThen_asked fun _ => rfl
    · cases h
  · unfold characterStep at h
    split_ifs at h
    · obtain ⟨c, -, hc⟩ := andThen_eq_next.1 h
      cases hc
      exact sendThen_asked fun _ => rfl
    · cases h
      rfl
  · cases h
    rfl

theorem lcdRun_asked {s t : State} (h : lcdRun s = .next t) : t.lcd.req.asked = s.lcd.req.asked := by
  unfold lcdRun at h
  split at h
  · cases h
    exact initStep_asked s
  · unfold requestStep at h
    split at h
    · exact writeStep_asked h
    · cases h
      exact clearStep_asked s
    · cases h
      rfl
    · cases h
      rfl
  · cases h
    rfl

theorem invoke_asked {cb : Word} {s t : State} (h : invoke cb s = .next t) :
    t.lcd.req.asked = s.lcd.req.asked := by
  obtain rfl | ⟨-, rfl⟩ | ⟨-, h⟩ := invoke_cases h
  · rfl
  · rfl
  · exact lcdRun_asked h

/-! ## The frame of the three steps -/

/-- What the tick handler, the main loop and the LCD runnable leave alone on every path. -/
structure MainFrame (s t : State) : Prop where
  cfg : t.cfg = s.cfg
  env : t.env = s.env
  port : t.port = s.port
  st : t.st = s.st
  us : t.us = s.us
  buf : t.buf = s.buf
  accepts : t.accepts = s.accepts
  draws : t.draws = s.draws
  asked : t.lcd.req.asked = s.lcd.req.asked

theorem MainFrame.refl (s : State) : MainFrame s s := ⟨rfl, rfl, rfl, rfl, rfl, rfl, rfl, rfl, rfl⟩

theorem MainFrame.trans {s t r : State} (h1 : MainFrame s t) (h2 : MainFrame t r) : MainFrame s r :=
  ⟨h2.cfg.trans h1.cfg, h2.env.trans h1.env, h2.port.trans h1.port, h2.st.trans h1.st, h2.us.trans h1.us,
    h2.buf.trans h1.buf, h2.accepts.trans h1.accepts, h2.draws.trans h1.draws, h2.asked.trans h1.asked⟩

theorem MainFrame.emit {s t : State} (h : MainFrame s t) (e : Event) : MainFrame s (emit e t) := { h with }

theorem MainFrame.setSch {s t : State} (h : MainFrame s t) (c : Sched) : MainFrame s (setSch c t) := { h with }

theorem lcdRun_mainFrame {s t : State} (h : lcdRun s = .next t) : MainFrame s t := by
  obtain ⟨hcfg, hport, -, hst, hus, hbuf, hacc, henv, hdraws⟩ := lcdRun_frame h
  exact ⟨hcfg, henv, hport, hst, hus, hbuf, hacc, hdraws, lcdRun_asked h⟩

theorem invoke_mainFrame {cb : Word} {s t : State} (h : invoke cb s = .next t) : MainFrame s t := by
  obtain ⟨hcfg, hport, hst, hus, hbuf, hacc, henv, hdraws, -⟩ := invoke_frame h
  exact ⟨hcfg, henv, hport, hst, hus, hbuf, hacc, hdraws, invoke_asked h⟩

/-- EV.SCHSTEP writes the scheduler, in a row step after a callback of the table if the row is dispatched (R137 to
R139). -/
theorem execEvSchStep_eq_setSch {s t : State} (h : execEvSchStep s = .next t) :
    ∃ m c, t = setSch c m ∧ (m = s ∨ ∃ r ∈ s.cfg.run, invoke r.cb (emit (.run s.sch.idx) s) = .next m) := by
  obtain ⟨-, rfl⟩ | ⟨-, ⟨r, hr, h⟩ | ⟨-, rfl⟩⟩ := execEvSchStep_next h
  · unfold pollStep
    split_ifs
    · exact ⟨s, _, rfl, .inl rfl⟩
    · exact ⟨s, s.sch, rfl, .inl rfl⟩
  · obtain ⟨m, hm, rfl⟩ := rowStep_next h
    exact ⟨m, _, rfl, hm.imp_right fun hm => ⟨r, List.mem_of_getElem? hr, hm⟩⟩
  · exact ⟨s, _, rfl, .inl rfl⟩

theorem execEvSchStep_mainFrame {s t : State} (h : execEvSchStep s = .next t) : MainFrame s t := by
  obtain ⟨m, c, rfl, rfl | ⟨r, -, hm⟩⟩ := execEvSchStep_eq_setSch h
  · exact (MainFrame.refl _).setSch c
  · exact (((MainFrame.refl s).emit _).trans (invoke_mainFrame hm)).setSch c

theorem execEvSchStep_lcd {s t : State} (h : execEvSchStep s = .next t) (hr : ∀ r ∈ s.cfg.run, r.cb ≠ s.cfg.cbLcd) :
    t.lcd = s.lcd := by
  obtain ⟨m, c, rfl, rfl | ⟨r, hmem, hm⟩⟩ := execEvSchStep_eq_setSch h
  · rfl
  · exact (invoke_keeps hm).2 (hr r hmem)

theorem execEvTick_mainFrame {s t : State} (h : execEvTick s = .next t) : MainFrame s t := by
  obtain ⟨-, m, n, h0, h1, h2⟩ := execEvTick_next h
  exact ((invoke_mainFrame h0).trans (invoke_mainFrame h1)).trans (invoke_mainFrame h2)

theorem execEvTick_lcd {s t : State} (h : execEvTick s = .next t) (hc0 : s.st.cb0 ≠ s.cfg.cbLcd)
    (hc1 : s.st.cb1 ≠ s.cfg.cbLcd) (hc2 : s.st.cb2 ≠ s.cfg.cbLcd) : t.lcd = s.lcd := by
  obtain ⟨-, m, n, h0, h1, h2⟩ := execEvTick_next h
  have hm := invoke_mainFrame h0
  have hn := hm.trans (invoke_mainFrame h1)
  calc t.lcd = n.lcd := (invoke_keeps h2).2 (by rwa [hn.cfg])
    _ = m.lcd := (invoke_keeps h1).2 (by rwa [hm.cfg])
    _ = s.lcd := (invoke_keeps h0).2 hc0

/-- Where the main loop stands: of the scheduler, all but the pending counter (R24, R25). -/
def Sched.position (c : Sched) : Word × SchPhase × Nat := (c.elapsedMs, c.phase, c.idx)

theorem invoke_position {cb : Word} {s t : State} (h : invoke cb s = .next t) : t.sch.position = s.sch.position := by
  obtain ⟨-, -, -, -, -, -, -, -, helapsed, hphase, hidx⟩ := invoke_frame h
  simp [Sched.position, helapsed, hphase, hidx]

theorem execEvTick_position {s t : State} (h : execEvTick s = .next t) : t.sch.position = s.sch.position := by
  obtain ⟨-, m, n, h0, h1, h2⟩ := execEvTick_next h
  exact (invoke_position h2).trans ((invoke_position h1).trans (invoke_position h0))

/-- The three steps' shared frame. -/
theorem exec_mainFrame {c : Instr} {s t : State} (hc : c = .evTick ∨ c = .evSchStep ∨ c = .evLcdRun)
    (h : exec c s = .next t) : MainFrame s t := by
  obtain rfl | rfl | rfl := hc
  · exact execEvTick_mainFrame h
  · exact execEvSchStep_mainFrame h
  · exact lcdRun_mainFrame h

/-- Settles O55: the shared frame, and what each of the three steps leaves alone besides. -/
theorem mainAndTickFrame : Obligations.MainAndTickFrame := by
  intro c s t hc h
  have hf : MainFrame s t := exec_mainFrame hc h
  obtain ⟨hptr, hlen, hrow, hcol⟩ : t.lcd.req.ptr = s.lcd.req.ptr ∧ t.lcd.req.len = s.lcd.req.len ∧
      t.lcd.req.row = s.lcd.req.row ∧ t.lcd.req.col = s.lcd.req.col := by
    simpa [LcdReq.asked] using hf.asked
  refine ⟨⟨hf.cfg, hf.env⟩, hf.port, hf.st, hf.us, fun a => by rw [hf.buf], hf.accepts, hf.draws, hptr, hlen, hrow,
    hcol, ?_, ?_, ?_, ?_⟩
  · rintro rfl
    obtain ⟨-, -, hsch, -⟩ := lcdRun_frame h
    exact hsch
  · rintro rfl
    simpa [Sched.position] using execEvTick_position h
  · rintro rfl
    exact execEvTick_lcd h
  · rintro rfl
    exact execEvSchStep_lcd h

end Sys2Proof.Machine
end

section
/-! SUPPORT. The divisor in one rounding, and what US.INIT programs and leaves alone (41_usart.md R165, R166). -/

namespace Sys2Proof.Machine

/-! ## The divisor -/

/-- The mantissa's part of the scaled divider is a whole number of steps, so only the rest is rounded (R165, D12). -/
theorem rounded_eq_mantissa_add_fraction (scaled os : Nat) :
    (scaled * os + 500) / 1000 = scaled / 1000 * os + (scaled % 1000 * os + 500) / 1000 := by
  have e : scaled * os + 500 = scaled % 1000 * os + 500 + 1000 * (scaled / 1000 * os) := by
    calc scaled * os + 500 = (scaled % 1000 + 1000 * (scaled / 1000)) * os + 500 := by rw [Nat.mod_add_div]
      _ = _ := by ring
  rw [e, Nat.add_mul_div_left _ _ (by decide), Nat.add_comm]

/-- A rounded fraction is at most one whole, the carry (R165). -/
theorem rounded_fraction_le {rem os : Nat} (hr : rem < 1000) (ho : os = 8 ∨ os = 16) :
    (rem * os + 500) / 1000 ≤ os := by
  obtain rfl | rfl := ho <;> omega

/-- Carry and fraction are the quotient and the remainder of one number of steps. -/
theorem carry_eq_div_mod {mant frac os : Nat} (h0 : 0 < os) (hf : frac ≤ os) :
    (if os ≤ frac then mant + 1 else mant) = (mant * os + frac) / os ∧
      (if os ≤ frac then 0 else frac) = (mant * os + frac) % os := by
  rw [Nat.add_comm (mant * os), Nat.add_mul_div_right _ _ h0, Nat.add_mul_mod_self_right]
  split_ifs with hc
  · obtain rfl : frac = os := Nat.le_antisymm hf hc
    simp [Nat.div_self h0, Nat.add_comm]
  · have hlt : frac < os := Nat.lt_of_not_le hc
    simp [Nat.div_eq_of_lt hlt, Nat.mod_eq_of_lt hlt]

/-- Settles O21: the two-part rounding with its carry is one rounding of the whole. -/
theorem divisorIsOneRoundingWithCarry : Obligations.DivisorIsOneRoundingWithCarry := by
  intro pclk baud os
  dsimp only [brr]
  by_cases hbad : baud = 0 ∨ (os ≠ 8 ∧ os ≠ 16)
  · rw [if_pos hbad, if_pos (hbad.imp_right .inl)]
  · obtain ⟨hb, hos⟩ := not_or.1 hbad
    have ho : os = 8 ∨ os = 16 := by omega
    generalize pclk * 1000 / (os * baud) = scaled
    have hfrac := rounded_fraction_le (Nat.mod_lt scaled (by decide)) ho
    obtain ⟨hdiv, hmod⟩ := carry_eq_div_mod (mant := scaled / 1000) (by omega) hfrac
    rw [if_neg hbad]
    simp only [brrRound, hdiv, hmod, ← rounded_eq_mantissa_add_fraction, hb, hos, false_or]

/-- Settles O22: each listed divisor by computation. -/
theorem listedDivisorsComeOut : Obligations.ListedDivisorsComeOut := by
  unfold Obligations.ListedDivisorsComeOut
  decide

/-! ## US.INIT -/

/-- R166 line 1. -/
theorem ucfgOk_iff {c : UCfg} : ucfgOk c = true ↔ (c.present = true → brr c.pclkHz c.baud c.oversampling ≠ none) := by
  cases hp : c.present <;> simp [ucfgOk, hp, Option.isSome_iff_ne_none]

theorem execUsInit_of_ok {s : State} (h : s.cfg.ucfg.all ucfgOk = true) :
    execUsInit s = .next (ret 0 { s with us := programAll s.cfg.ucfg s.us }) :=
  if_pos h

theorem execUsInit_of_bad {s : State} (h : s.cfg.ucfg.all ucfgOk = false) : execUsInit s = .next (ret 2 s) :=
  if_neg (ne_true_of_eq_false h)

/-- R166 line 2, one USART at a time; a record without a configuration is left alone. -/
theorem getElem?_programAll (cs : List UCfg) (us : List Usart) (k : Nat) :
    (programAll cs us)[k]? = (us[k]?).map fun u => ((cs[k]?).map fun c => programUsart c u).getD u := by
  induction cs generalizing us k with
  | nil => simp [programAll]
  | cons c cs ih =>
    cases us with
    | nil => simp [programAll]
    | cons u us =>
      cases k with
      | zero => simp [programAll]
      | succ k => simpa [programAll] using ih us k

theorem programUsart_absent {c : UCfg} (h : c.present = false) (u : Usart) : programUsart c u = u :=
  if_neg (ne_true_of_eq_false h)

theorem programUsart_present {c : UCfg} {v : Half} (h : c.present = true)
    (hv : brr c.pclkHz c.baud c.oversampling = some v) (u : Usart) : programUsart c u = programWith c v u := by
  simp [programUsart, h, hv]

theorem programWith_cr (c : UCfg) (v : Half) (u : Usart) :
    (programWith c v u).cr =
      crSet (crSet (crSet (crSet u.cr 15 (decide (c.oversampling = 8))) 12 (decide (c.wordlen = .nine))) 10
        (decide (c.parity ≠ .none))) 9 (decide (c.parity = .odd)) := rfl

/-- Settles O23: the first clause is the report of line 1, the second line 2 for each USART. -/
theorem usInitProgramsEveryPresentUsart : Obligations.UsInitProgramsEveryPresentUsart := by
  refine fun s => ⟨fun ⟨c, hc, hp, hb⟩ => execUsInit_of_bad ?_, fun hok => ?_⟩
  · rw [List.all_eq_false]
    exact ⟨c, hc, fun h => ucfgOk_iff.1 h hp hb⟩
  · have hall : s.cfg.ucfg.all ucfgOk = true := List.all_eq_true.2 fun c hc => ucfgOk_iff.2 (hok c hc)
    refine ⟨_, execUsInit_of_ok hall, rfl, rfl, length_programAll _ _, fun k c u hc hu => ?_⟩
    have hk : (programAll s.cfg.ucfg s.us)[k]? = some (programUsart c u) := by
      simp [getElem?_programAll, hc, hu]
    refine ⟨fun ha => hk.trans (congrArg some (programUsart_absent ha u)), fun hp => ?_⟩
    obtain ⟨v, hv⟩ := Option.ne_none_iff_exists'.1 (hok c (List.mem_of_getElem? hc) hp)
    refine ⟨v, _, hv, hk.trans (congrArg some (programUsart_present hp hv u)), rfl, ?_, ?_, ?_, ?_, rfl⟩
    all_goals simp [programWith_cr, crBit_crSet]

/-- What programming leaves alone in a USART (R166). -/
abbrev InitKept (u v : Usart) : Prop :=
  SameCrBut [15, 12, 10, 9] u v ∧ v.tc = u.tc ∧ v.rxne = u.rxne ∧ v.txInflight = u.txInflight ∧
    v.drRx = u.drRx ∧ v.tx = u.tx ∧ v.rx = u.rx ∧ v.rb = u.rb

theorem initKept_refl (u : Usart) : InitKept u u := ⟨fun _ _ => rfl, rfl, rfl, rfl, rfl, rfl, rfl, rfl⟩

theorem programWith_kept (c : UCfg) (v : Half) (u : Usart) : InitKept u (programWith c v u) := by
  refine ⟨fun k hk => ?_, rfl, rfl, rfl, rfl, rfl, rfl, rfl⟩
  simp only [List.mem_cons, List.not_mem_nil, or_false, not_or] at hk
  obtain ⟨h15, h12, h10, h9⟩ := hk
  rw [programWith_cr, crBit_crSet_other _ _ h9, crBit_crSet_other _ _ h10, crBit_crSet_other _ _ h12,
    crBit_crSet_other _ _ h15]

theorem programUsart_kept (c : UCfg) (u : Usart) : InitKept u (programUsart c u) := by
  unfold programUsart
  split_ifs
  · split
    · exact programWith_kept c _ u
    · exact initKept_refl u
  · exact initKept_refl u

theorem programAll_kept {cs : List UCfg} {us : List Usart} {k : Nat} {u v : Usart} (hu : us[k]? = some u)
    (hv : (programAll cs us)[k]? = some v) : InitKept u v := by
  rw [getElem?_programAll, hu, Option.map_some, Option.some.injEq] at hv
  subst hv
  cases cs[k]? with
  | none => exact initKept_refl u
  | some c => exact programUsart_kept c u

/-- Settles O24: US.INIT returns, and before that at most programs each USART. -/
theorem usInitFrame : Obligations.UsInitFrame := by
  intro s t h
  obtain ⟨k, rfl⟩ | ⟨k, rfl⟩ := execUsInit_next h
  · refine ⟨⟨rfl, rfl⟩, ⟨rfl, rfl, rfl⟩, rfl, rfl, rfl, rfl, rfl, fun _ => rfl, fun k u v hu hv => ?_⟩
    obtain rfl : u = v := Option.some.inj (hu.symm.trans hv)
    exact initKept_refl u
  · exact ⟨⟨rfl, rfl⟩, ⟨rfl, rfl, rfl⟩, rfl, rfl, rfl, rfl, rfl, fun _ => rfl, fun k u v => programAll_kept⟩

end Sys2Proof.Machine
end

section
/-! SUPPORT. The four transfer commands: their checks, what each does past them, and what it leaves alone (41_usart.md
R170 to R186). -/

namespace Sys2Proof.Machine

/-! ## The checks -/

/-- The form the four transfer commands share: ended by a check with its code, or accepted (R170, R171). -/
def transferCommand (bad : Bool) (i : Byte) (slot : Usart → Slot) (a : Accept) (s : State) : Res State :=
  match transferCheck bad i slot s with
  | some c => .next (ret (usCode c) s)
  | none => acceptOrHold a (acceptStepB a) s

theorem execUsSendB_eq (i : Byte) (s : State) :
    execUsSendB i s = transferCommand (nullBlocking s) i Usart.tx (.sendB i s.port.a0) s := rfl

theorem execUsRecvB_eq (i : Byte) (s : State) :
    execUsRecvB i s = transferCommand (nullBlocking s) i Usart.rx (.recvB i s.port.a0) s := rfl

theorem execUsSendA_eq (i : Byte) (s : State) :
    execUsSendA i s = transferCommand (nullAsync s) i Usart.tx (.sendA i s.port.a0 s.port.a1 s.port.a2) s := rfl

theorem execUsRecvA_eq (i : Byte) (s : State) :
    execUsRecvA i s = transferCommand (nullAsync s) i Usart.rx (.recvA i s.port.a0 s.port.a1 s.port.a2) s := rfl

theorem transferCommand_of_ended {bad : Bool} {i : Byte} {slot : Usart → Slot} {a : Accept} {s : State} {c : UsStatus}
    (h : transferCheck bad i slot s = some c) : transferCommand bad i slot a s = .next (ret (usCode c) s) := by
  rw [transferCommand, h]

theorem transferCommand_of_passed {bad : Bool} {i : Byte} {slot : Usart → Slot} {a : Accept} {s : State}
    (h : transferCheck bad i slot s = none) : transferCommand bad i slot a s = acceptOrHold a (acceptStepB a) s := by
  rw [transferCommand, h]

theorem nullBlocking_iff {s : State} : nullBlocking s = true ↔ s.port.a0 = 0 := by simp [nullBlocking]

theorem nullAsync_iff {s : State} : nullAsync s = true ↔ s.port.a0 = 0 ∨ s.port.a2 = 0 := by simp [nullAsync]

theorem nullBlocking_false {s : State} (h0 : s.port.a0 ≠ 0) : nullBlocking s = false :=
  decide_eq_false h0

theorem nullAsync_false {s : State} (h0 : s.port.a0 ≠ 0) (h2 : s.port.a2 ≠ 0) : nullAsync s = false :=
  Bool.eq_false_iff.2 fun h => (nullAsync_iff.1 h).elim h0 h2

section
variable {bad : Bool} {i : Byte} {slot : Usart → Slot} {a : Accept} {s : State} {u : Usart}

theorem transferCommand_of_null (h : bad = true) : transferCommand bad i slot a s = .next (ret 3 s) :=
  transferCommand_of_ended (transferCheck_some.2 (.inl ⟨h, rfl⟩))

theorem transferCommand_of_absent (h : bad = false) (hu : usart? s i = none) :
    transferCommand bad i slot a s = .next (ret 1 s) :=
  transferCommand_of_ended (transferCheck_some.2 (.inr (.inl ⟨h, hu, rfl⟩)))

theorem transferCommand_of_busy (h : bad = false) (hu : usart? s i = some u) (hb : (slot u).state = .busy) :
    transferCommand bad i slot a s = .next (ret 4 s) :=
  transferCommand_of_ended (transferCheck_some.2 (.inr (.inr ⟨h, u, hu, hb, rfl⟩)))

theorem transferCommand_of_checked (hat : s.cfg.acceptAtomic = true) (h : bad = false) (hu : usart? s i = some u)
    (hidle : (slot u).state = .idle) : transferCommand bad i slot a s = acceptStepB a s :=
  (transferCommand_of_passed (transferCheck_none.2 ⟨h, u, hu, hidle⟩)).trans (acceptOrHold_of_atomic hat a _)

end

/-- Settles O25: the three ways a check ends a command, for each command. -/
theorem transferChecksInOrder : Obligations.TransferChecksInOrder := by
  intro s i hlen
  have absent (hi : s.cfg.nUsart ≤ i.toNat) : usart? s i = none := List.getElem?_eq_none (hlen ▸ hi)
  refine ⟨fun h0 => ?_, fun h => ?_, fun h0 hi => ?_, fun h0 h2 hi => ?_, fun u hu => ⟨?_, ?_, ?_, ?_⟩⟩
  · have hn := nullBlocking_iff.2 h0
    exact ⟨(execUsSendB_eq i s).trans (transferCommand_of_null hn),
      (execUsRecvB_eq i s).trans (transferCommand_of_null hn)⟩
  · have hn := nullAsync_iff.2 h
    exact ⟨(execUsSendA_eq i s).trans (transferCommand_of_null hn),
      (execUsRecvA_eq i s).trans (transferCommand_of_null hn)⟩
  · have hn := nullBlocking_false h0
    exact ⟨(execUsSendB_eq i s).trans (transferCommand_of_absent hn (absent hi)),
      (execUsRecvB_eq i s).trans (transferCommand_of_absent hn (absent hi))⟩
  · have hn := nullAsync_false h0 h2
    exact ⟨(execUsSendA_eq i s).trans (transferCommand_of_absent hn (absent hi)),
      (execUsRecvA_eq i s).trans (transferCommand_of_absent hn (absent hi))⟩
  · exact fun h0 hb => (execUsSendB_eq i s).trans (transferCommand_of_busy (nullBlocking_false h0) hu hb)
  · exact fun h0 hb => (execUsRecvB_eq i s).trans (transferCommand_of_busy (nullBlocking_false h0) hu hb)
  · exact fun h0 h2 hb => (execUsSendA_eq i s).trans (transferCommand_of_busy (nullAsync_false h0 h2) hu hb)
  · exact fun h0 h2 hb => (execUsRecvA_eq i s).trans (transferCommand_of_busy (nullAsync_false h0 h2) hu hb)

/-! ## Past the checks -/

/-- US.RECVB past its checks is its step B (R171, R176). -/
theorem execUsRecvB_of_checked {i : Byte} {s : State} {u : Usart} (hu : usart? s i = some u)
    (hat : s.cfg.acceptAtomic = true) (h0 : s.port.a0 ≠ 0) (hidle : u.rx.state = .idle) :
    execUsRecvB i s = recvBStepB i s.port.a0 s :=
  (execUsRecvB_eq i s).trans (transferCommand_of_checked hat (nullBlocking_false h0) hu hidle)

/-- US.RECVA past its checks is its step B (R171, R186). -/
theorem execUsRecvA_of_checked {i : Byte} {s : State} {u : Usart} (hu : usart? s i = some u)
    (hat : s.cfg.acceptAtomic = true) (h0 : s.port.a0 ≠ 0) (h2 : s.port.a2 ≠ 0) (hidle : u.rx.state = .idle) :
    execUsRecvA i s = recvAStepB i s.port.a0 s.port.a1 s.port.a2 s :=
  (execUsRecvA_eq i s).trans (transferCommand_of_checked hat (nullAsync_false h0 h2) hu hidle)

/-- The record US.SENDB leaves: the slot is Idle again (R173). -/
theorem sentB_eq {u : Usart} (hidle : u.tx.state = .idle) (b : Byte) :
    Usart.endSendB (Usart.startFrame b (Usart.beginSendB u)) =
      { u with cr := u.cr ||| 0x0008, txInflight := some b, tc := false } := by
  obtain ⟨cr, tc, rxne, fl, dr, brr, stop, ⟨buf, pos, size, cb, state⟩, rx, rb⟩ := u
  cases hidle
  rfl

/-- The record US.SENDA leaves (R182). -/
theorem sentA_eq (a0 a1 a2 : Word) (u : Usart) (b : Byte) :
    Usart.armSendA (Usart.startFrame b (Usart.beginSendA a0 a1 a2 u)) = { u with
      cr := u.cr ||| 0x0048, txInflight := some b, tc := false,
      tx := { buf := a0, pos := 1, size := a1, cb := a2, state := .busy } } := by
  have hcr : crSet (crSet u.cr bitTxen true) bitTcie true = u.cr ||| 0x0048 := by
    rw [crSet_true, crSet_true, BitVec.or_assoc]
    rfl
  rw [← hcr]
  rfl

/-- The record US.RECVA leaves (R186). -/
theorem beginRecvA_eq (a0 a1 a2 : Word) (u : Usart) :
    Usart.beginRecvA a0 a1 a2 u = { u with
      cr := u.cr ||| 0x0024, rx := { buf := a0, pos := 0, size := a1, cb := a2, state := .busy } } := by
  have hcr : crSet (crSet u.cr bitRxen true) bitRxneie true = u.cr ||| 0x0024 := by
    rw [crSet_true, crSet_true, BitVec.or_assoc]
    rfl
  rw [← hcr]
  rfl

/-- Settles O26: past the checks step B answers, with the record of `sentB_eq`. -/
theorem sendBHandsOverOneByte : Obligations.SendBHandsOverOneByte := by
  intro s i u hat hu h0 hidle hfree ha
  refine ⟨_, (execUsSendB_of_checked hu hat h0 hidle).trans (sendBStepB_next.2 ⟨u, hu, ha, hfree, rfl⟩), rfl, ?_, ?_⟩
  · simp [usCode]
  · rw [usart?_ret, usart?_emit, usart?_modUs_some _ hu]
    exact congrArg some (sentB_eq hidle _)

/-- Settles O28: past the checks step B answers. -/
theorem recvBStartsTheSpin : Obligations.RecvBStartsTheSpin := by
  intro s i u hat hu h0 hidle
  exact ⟨_, (execUsRecvB_of_checked hu hat h0 hidle).trans (recvBStepB_next.2 ⟨u, hu, rfl⟩), rfl, rfl,
    usart?_modUs_some _ hu⟩

/-- Settles O31: past the checks step B answers, with the record of `beginRecvA_eq`. -/
theorem recvAArmsTheReceiver : Obligations.RecvAArmsTheReceiver := by
  intro s i u hat hu h0 h2 hidle
  refine ⟨_, (execUsRecvA_of_checked hu hat h0 h2 hidle).trans (recvAStepB_next.2 ⟨u, hu, rfl⟩), rfl, rfl, ?_⟩
  rw [usart?_ret, usart?_modUs_some _ hu, beginRecvA_eq]

/-- Settles O30: past the checks step B refuses size 0, and otherwise answers with the record of `sentA_eq`. -/
theorem sendAPushesTheFirstByte : Obligations.SendAPushesTheFirstByte := by
  intro s i u hat hu h0 h2 hidle
  have hB := execUsSendA_of_checked hu hat h0 h2 hidle
  refine ⟨fun h1 => hB.trans ?_, fun h1 hfree ha => ?_⟩
  · rw [sendAStepB, withUs_some hu, if_pos h1]
  · refine ⟨_, hB.trans (sendAStepB_next.2 ⟨u, hu, h1, ha, hfree, rfl⟩), rfl, ?_, ?_⟩
    · simp [usCode]
    · rw [usart?_ret, usart?_emit, usart?_modUs_some _ hu]
      exact congrArg some (sentA_eq _ _ _ u _)

/-! ## A frame in flight -/

/-- The transmitter takes no byte while it sends one (R162, R321). -/
theorem writeDR_overrun {i b : Byte} {s : State} {u : Usart} (hu : usart? s i = some u)
    (hen : crBit u.cr bitTxen = true) (hf : u.txInflight ≠ none) : writeDR i b s = .refused (.txOverrun i) := by
  rw [writeDR, withUs_some hu, if_neg (by simp [hen]), if_pos hf]

theorem sendBStepB_overrun {i : Byte} {a0 : Word} {s : State} {u : Usart} (hu : usart? s i = some u)
    (ha : admits s.cfg a0 = true) (hf : u.txInflight ≠ none) : sendBStepB i a0 s = .refused (.txOverrun i) := by
  rw [sendBStepB, withUs_some hu, load_admitted ha, andThen_next, writeDR_overrun (usart?_modUs_some _ hu) ?_ hf,
    andThen_refused]
  simp [crBit_crSet, bitTxen]

theorem sendAStepB_overrun {i : Byte} {a0 a1 a2 : Word} {s : State} {u : Usart} (hu : usart? s i = some u)
    (h1 : a1 ≠ 0) (ha : admits s.cfg a0 = true) (hf : u.txInflight ≠ none) :
    sendAStepB i a0 a1 a2 s = .refused (.txOverrun i) := by
  have e : eagerAddr a0 = a0 := BitVec.add_zero a0
  rw [sendAStepB, withUs_some hu, if_neg h1, e, load_admitted ha, andThen_next,
    writeDR_overrun (usart?_modUs_some _ hu) ?_ hf, andThen_refused]
  simp [crBit_crSet, bitTxen]

/-- Settles O27: past the checks step B comes to the write of DR, which is refused. -/
theorem sendWithFrameInFlightIsRefused : Obligations.SendWithFrameInFlightIsRefused := by
  intro s i u hat hu h0 hidle hf ha
  exact ⟨(execUsSendB_of_checked hu hat h0 hidle).trans (sendBStepB_overrun hu ha hf), fun h1 h2 =>
    (execUsSendA_of_checked hu hat h0 h2 hidle).trans (sendAStepB_overrun hu h1 ha hf)⟩

/-! ## What the commands leave alone -/

theorem sameOtherUs_modUs (i : Byte) (f : Usart → Usart) (s : State) : SameOtherUs i s (modUs i f s) :=
  ⟨length_modUs i f s, fun _ hj => usart?_modUs_other f s hj⟩

/-- No format field of CR is among the bits `ks` (R28). -/
abbrev NoFormatBit (ks : List Nat) : Prop := ∀ k ∈ [bitOver8, bitWlen9, bitParen, bitParsel], k ∉ ks

/-- A change of CR's other bits alone keeps the format (R31, R32). -/
theorem SameCrBut.sameFormat {ks : List Nat} {u v : Usart} (h : SameCrBut ks u v) (hks : NoFormatBit ks)
    (hbrr : v.brr = u.brr) (hstop : v.stop = u.stop) : SameFormat u v :=
  ⟨hbrr, hstop, h _ (hks _ (by simp)), h _ (hks _ (by simp)), h _ (hks _ (by simp)), h _ (hks _ (by simp))⟩

theorem SameCrBut.mono {ks ls : List Nat} {u v : Usart} (h : SameCrBut ks u v) (hsub : ks ⊆ ls) : SameCrBut ls u v :=
  fun k hk => h k fun hm => hk (hsub hm)

/-- What a transfer command on USART `i` leaves alone outside it, and the relation `R` between the records of `i`
before and after (R160). -/
structure CommandFrame (R : Usart → Usart → Prop) (i : Byte) (s t : State) : Prop where
  frame : SameFrame s t
  operands : SameOperands s t
  sch : t.sch = s.sch
  st : t.st = s.st
  lcd : t.lcd = s.lcd
  draws : t.draws = s.draws
  buf : SameBuf s t
  others : SameOtherUs i s t
  accepts : s.cfg.acceptAtomic = true → t.accepts = s.accepts
  own : ∀ u v, usart? s i = some u → usart? t i = some v → R u v

theorem CommandFrame.mono {R Q : Usart → Usart → Prop} {i : Byte} {s t : State} (h : CommandFrame R i s t)
    (hRQ : ∀ u v, R u v → Q u v) : CommandFrame Q i s t :=
  { h with own := fun u v hu hv => hRQ u v (h.own u v hu hv) }

/-- A command its checks end, or that is held, leaves its USART as it is. -/
theorem commandFrame_of_us_eq {R : Usart → Usart → Prop} (hR : ∀ u, R u u) {i : Byte} {s t : State}
    (h : (∃ c, t = ret (usCode c) s) ∨ (s.cfg.acceptAtomic = false ∧ ∃ a, t = { s with accepts := s.accepts ++ [a] })) :
    CommandFrame R i s t := by
  have own (hus : t.us = s.us) (u v : Usart) (hu : usart? s i = some u) (hv : usart? t i = some v) : R u v := by
    rw [usart?, hus] at hv
    obtain rfl : u = v := Option.some.inj (hu.symm.trans hv)
    exact hR u
  obtain ⟨c, rfl⟩ | ⟨hat, a, rfl⟩ := h
  · exact ⟨⟨rfl, rfl⟩, ⟨rfl, rfl, rfl⟩, rfl, rfl, rfl, rfl, fun _ => rfl, ⟨rfl, fun _ _ => rfl⟩, fun _ => rfl, own rfl⟩
  · refine ⟨⟨rfl, rfl⟩, ⟨rfl, rfl, rfl⟩, rfl, rfl, rfl, rfl, fun _ => rfl, ⟨rfl, fun _ _ => rfl⟩, fun h => ?_, own rfl⟩
    rw [hat] at h
    cases h

/-- A command that changes its USART's record by `f`, and otherwise at most emits and returns. -/
theorem commandFrame_modUs {R : Usart → Usart → Prop} {i : Byte} {s : State} {u : Usart} {f : Usart → Usart}
    (hu : usart? s i = some u) (hR : R u (f u)) : CommandFrame R i s (modUs i f s) := by
  refine ⟨⟨rfl, rfl⟩, ⟨rfl, rfl, rfl⟩, rfl, rfl, rfl, rfl, fun _ => rfl, sameOtherUs_modUs i f s, fun _ => rfl,
    fun u' v hu' hv => ?_⟩
  obtain rfl : u = u' := Option.some.inj (hu.symm.trans hu')
  rw [usart?_modUs_some f hu, Option.some.injEq] at hv
  exact hv ▸ hR

theorem CommandFrame.emit {R : Usart → Usart → Prop} {i : Byte} {s t : State} (h : CommandFrame R i s t) (e : Event) :
    CommandFrame R i s (emit e t) := { h with }

theorem CommandFrame.ret {R : Usart → Usart → Prop} {i : Byte} {s t : State} (h : CommandFrame R i s t) (k : Word) :
    CommandFrame R i s (ret k t) := { h with }

/-- What a send keeps of its USART. -/
abbrev SendKept (u v : Usart) : Prop :=
  SameCrBut [3, 6] u v ∧ v.brr = u.brr ∧ v.stop = u.stop ∧ v.rxne = u.rxne ∧ v.drRx = u.drRx ∧ v.rx = u.rx ∧
    v.rb = u.rb

/-- What a blocking send keeps besides. -/
abbrev SendBKept (u v : Usart) : Prop := SendKept u v ∧ SameCrBut [3] u v ∧ v.tx = u.tx

theorem sendBKept_refl (u : Usart) : SendBKept u u :=
  ⟨⟨fun _ _ => rfl, rfl, rfl, rfl, rfl, rfl, rfl⟩, fun _ _ => rfl, rfl⟩

theorem sentB_kept {u : Usart} (hidle : u.tx.state = .idle) (b : Byte) :
    SendBKept u (Usart.endSendB (Usart.startFrame b (Usart.beginSendB u))) := by
  have hcr : SameCrBut [3] u (Usart.endSendB (Usart.startFrame b (Usart.beginSendB u))) := fun _ hk =>
    crBit_crSet_other u.cr true fun h => hk (List.mem_singleton.2 h)
  exact ⟨⟨hcr.mono (by simp), rfl, rfl, rfl, rfl, rfl, rfl⟩, hcr, by rw [sentB_eq hidle]⟩

theorem sentA_kept (a0 a1 a2 : Word) (u : Usart) (b : Byte) :
    SendKept u (Usart.armSendA (Usart.startFrame b (Usart.beginSendA a0 a1 a2 u))) := by
  refine ⟨fun k hk => ?_, rfl, rfl, rfl, rfl, rfl, rfl⟩
  obtain ⟨h3, h6⟩ : k ≠ 3 ∧ k ≠ 6 := by simpa using hk
  exact (crBit_crSet_other _ _ h6).trans (crBit_crSet_other _ _ h3)

/-- US.SENDB reaches its step B only past its checks (R170, R173). -/
theorem execUsSendB_idle {i : Byte} {s t : State} (h : execUsSendB i s = .next t) :
    (∃ c, t = ret (usCode c) s) ∨ ∃ u, usart? s i = some u ∧ u.tx.state = .idle := by
  cases hc : transferCheck (nullBlocking s) i Usart.tx s with
  | some c =>
    rw [execUsSendB_eq, transferCommand_of_ended hc] at h
    cases h
    exact .inl ⟨c, rfl⟩
  | none => exact .inr (transferCheck_none.1 hc).2

theorem execUsSendB_frame {i : Byte} {s t : State} (h : execUsSendB i s = .next t) : CommandFrame SendBKept i s t := by
  obtain hr | ⟨u, hu, hidle⟩ := execUsSendB_idle h
  · exact commandFrame_of_us_eq sendBKept_refl (.inl hr)
  · obtain hr | ⟨hat, hh⟩ | ⟨-, hB⟩ := execUsSendB_next h
    · exact commandFrame_of_us_eq sendBKept_refl (.inl hr)
    · exact commandFrame_of_us_eq sendBKept_refl (.inr ⟨hat, _, hh⟩)
    · obtain ⟨-, -, -, -, rfl⟩ := sendBStepB_next.1 hB
      exact ((commandFrame_modUs hu (sentB_kept hidle _)).emit _).ret _

theorem execUsSendA_frame {i : Byte} {s t : State} (h : execUsSendA i s = .next t) : CommandFrame SendKept i s t := by
  obtain hr | ⟨hat, hh⟩ | ⟨-, hB⟩ := execUsSendA_next h
  · exact commandFrame_of_us_eq (fun u => (sendBKept_refl u).1) (.inl hr)
  · exact commandFrame_of_us_eq (fun u => (sendBKept_refl u).1) (.inr ⟨hat, _, hh⟩)
  · obtain ⟨u, hu, -, -, -, rfl⟩ := sendAStepB_next.1 hB
    exact ((commandFrame_modUs hu (sentA_kept _ _ _ u _)).emit _).ret _

/-- Settles O33: the shared frame of the two sends, and the stronger one of US.SENDB. -/
theorem sendFrame : Obligations.SendFrame := by
  intro s t i h
  have hf : CommandFrame SendKept i s t :=
    h.elim (fun h => (execUsSendB_frame h).mono fun _ _ hk => hk.1) execUsSendA_frame
  refine ⟨hf.frame, hf.operands, hf.sch, hf.st, hf.lcd, hf.draws, hf.buf, hf.others, hf.accepts,
    fun u v hu hv => ?_⟩
  obtain ⟨hcr, hbrr, hstop, hrxne, hdr, hrx, hrb⟩ := hf.own u v hu hv
  exact ⟨hcr, hcr.sameFormat (by decide) hbrr hstop, hrxne, hdr, hrx, hrb,
    fun h => ((execUsSendB_frame h).own u v hu hv).2⟩

/-- What a receive keeps of its USART. -/
abbrev RecvKept (u v : Usart) : Prop :=
  SameCrBut [2, 5] u v ∧ v.brr = u.brr ∧ v.stop = u.stop ∧ v.tc = u.tc ∧ v.rxne = u.rxne ∧
    v.txInflight = u.txInflight ∧ v.drRx = u.drRx ∧ v.tx = u.tx

/-- What a blocking receive keeps besides. -/
abbrev RecvBKept (u v : Usart) : Prop :=
  RecvKept u v ∧ SameCrBut [2] u v ∧ v.rx.buf = u.rx.buf ∧ v.rx.pos = u.rx.pos ∧ v.rx.size = u.rx.size ∧
    v.rx.cb = u.rx.cb

/-- What an asynchronous receive keeps besides. -/
abbrev RecvAKept (u v : Usart) : Prop := RecvKept u v ∧ v.rb = u.rb

theorem recvKept_refl (u : Usart) : RecvKept u u := ⟨fun _ _ => rfl, rfl, rfl, rfl, rfl, rfl, rfl, rfl⟩

theorem beginRecvB_kept (a0 : Word) (u : Usart) : RecvBKept u (Usart.beginRecvB a0 u) := by
  have hcr : SameCrBut [2] u (Usart.beginRecvB a0 u) := fun _ hk =>
    crBit_crSet_other u.cr true fun h => hk (List.mem_singleton.2 h)
  exact ⟨⟨hcr.mono (by simp), rfl, rfl, rfl, rfl, rfl, rfl, rfl⟩, hcr, rfl, rfl, rfl, rfl⟩

theorem beginRecvA_kept (a0 a1 a2 : Word) (u : Usart) : RecvAKept u (Usart.beginRecvA a0 a1 a2 u) := by
  refine ⟨⟨fun k hk => ?_, rfl, rfl, rfl, rfl, rfl, rfl, rfl⟩, rfl⟩
  obtain ⟨h2, h5⟩ : k ≠ 2 ∧ k ≠ 5 := by simpa using hk
  exact (crBit_crSet_other _ _ h5).trans (crBit_crSet_other _ _ h2)

theorem execUsRecvB_frame {i : Byte} {s t : State} (h : execUsRecvB i s = .next t) : CommandFrame RecvBKept i s t := by
  have hrefl (u : Usart) : RecvBKept u u := ⟨recvKept_refl u, fun _ _ => rfl, rfl, rfl, rfl, rfl⟩
  obtain hr | ⟨hat, hh⟩ | ⟨-, hB⟩ := execUsRecvB_next h
  · exact commandFrame_of_us_eq hrefl (.inl hr)
  · exact commandFrame_of_us_eq hrefl (.inr ⟨hat, _, hh⟩)
  · obtain ⟨u, hu, rfl⟩ := recvBStepB_next.1 hB
    exact commandFrame_modUs hu (beginRecvB_kept _ u)

theorem execUsRecvA_frame {i : Byte} {s t : State} (h : execUsRecvA i s = .next t) : CommandFrame RecvAKept i s t := by
  have hrefl (u : Usart) : RecvAKept u u := ⟨recvKept_refl u, rfl⟩
  obtain hr | ⟨hat, hh⟩ | ⟨-, hB⟩ := execUsRecvA_next h
  · exact commandFrame_of_us_eq hrefl (.inl hr)
  · exact commandFrame_of_us_eq hrefl (.inr ⟨hat, _, hh⟩)
  · obtain ⟨u, hu, rfl⟩ := recvAStepB_next.1 hB
    exact (commandFrame_modUs hu (beginRecvA_kept _ _ _ u)).ret _

/-- Settles O34: the shared frame of the two receives, and what each keeps besides. -/
theorem receiveFrame : Obligations.ReceiveFrame := by
  intro s t i h
  have hf : CommandFrame RecvKept i s t :=
    h.elim (fun h => (execUsRecvB_frame h).mono fun _ _ hk => hk.1)
      (fun h => (execUsRecvA_frame h).mono fun _ _ hk => hk.1)
  refine ⟨hf.frame, hf.operands, hf.sch, hf.st, hf.lcd, hf.draws, hf.buf, hf.others, hf.accepts,
    fun u v hu hv => ?_⟩
  obtain ⟨hcr, hbrr, hstop, htc, hrxne, hfl, hdr, htx⟩ := hf.own u v hu hv
  exact ⟨hcr, hcr.sameFormat (by decide) hbrr hstop, htc, hrxne, hfl, hdr, htx,
    fun h => ((execUsRecvB_frame h).own u v hu hv).2, fun h => ((execUsRecvA_frame h).own u v hu hv).2⟩

end Sys2Proof.Machine
end

section
/-! SUPPORT. The line events and the spin of the blocking receive (41_usart.md R177 to R179, R195, R196). -/

namespace Sys2Proof.Machine

/-! ## Line events -/

theorem execEvTxDone_of_free {i : Byte} {s : State} {u : Usart} (hu : usart? s i = some u)
    (hf : u.txInflight = none) : execEvTxDone i s = .refused (.notEnabled "EV.TXDONE") := by
  rw [execEvTxDone, withUs_some hu, if_pos hf]

/-- Settles O35: refused without a frame, and otherwise one change of the record. -/
theorem txDoneEndsTheFrame : Obligations.TxDoneEndsTheFrame := fun s i u hu =>
  ⟨execEvTxDone_of_free hu, fun hf => ⟨_, execEvTxDone_next.2 ⟨u, hu, hf, rfl⟩, rfl, sameOtherUs_modUs i _ s,
    usart?_modUs_some _ hu⟩⟩

theorem execEvRxByte_of_disabled {i d : Byte} {s : State} {u : Usart} (hu : usart? s i = some u)
    (he : crBit u.cr bitRxen = false) : execEvRxByte i d s = .next s := by
  rw [execEvRxByte, withUs_some hu, if_pos he]

theorem execEvRxByte_of_read {i d : Byte} {s : State} {u : Usart} (hu : usart? s i = some u)
    (he : crBit u.cr bitRxen = true) (hr : u.rxne = false) :
    execEvRxByte i d s = .next (modUs i (Usart.takeByte d) s) := by
  rw [execEvRxByte, withUs_some hu, if_neg (by simp [he]), if_pos hr]

theorem execEvRxByte_of_unread {i d : Byte} {s : State} {u : Usart} (hu : usart? s i = some u)
    (he : crBit u.cr bitRxen = true) (hr : u.rxne = true) :
    execEvRxByte i d s =
      .next { modUs i (Usart.drawByte (Config.rxDraw s.draws) d) s with draws := s.draws + 1 } := by
  rw [execEvRxByte, withUs_some hu, if_neg (by simp [he]), if_neg (by simp [hr])]

/-- A draw takes the new byte or keeps the old one, which stays unread (U4). -/
theorem drawByte_eq {u : Usart} (hr : u.rxne = true) (n : Bool) (d : Byte) :
    u.drawByte n d = { u with drRx := if n then d else u.drRx, rxne := true } := by
  cases u
  cases hr
  rfl

/-- Settles O36: the three branches of R196. -/
theorem rxByteIsLostLoadedOrDrawn : Obligations.RxByteIsLostLoadedOrDrawn := by
  intro s i d u hu
  refine ⟨execEvRxByte_of_disabled hu, fun he => ?_⟩
  cases hr : u.rxne with
  | false =>
    exact ⟨_, d, execEvRxByte_of_read hu he hr, rfl, sameOtherUs_modUs i _ s, usart?_modUs_some _ hu,
      fun _ => ⟨rfl, rfl⟩, fun h => by cases h⟩
  | true =>
    refine ⟨_, if Config.rxDraw s.draws then d else u.drRx, execEvRxByte_of_unread hu he hr, rfl,
      sameOtherUs_modUs i _ s, ?_, fun h => (by cases h), fun _ => ite_eq_or_eq _ _ _⟩
    exact (usart?_modUs_some _ hu).trans (congrArg some (drawByte_eq hr _ d))

/-! ## The spin -/

theorem execEvPoll_of_not_spinning {i : Byte} {s : State} {u : Usart} (hu : usart? s i = some u)
    (hp : u.rb.phase ≠ .spinning) : execEvPoll i s = .refused (.notEnabled "EV.POLL") := by
  rw [execEvPoll, withUs_some hu, if_pos hp]

theorem execEvPoll_of_timeOut {i : Byte} {s : State} {u : Usart} (hu : usart? s i = some u)
    (hp : u.rb.phase = .spinning) (hb : u.rb.spin = s.cfg.rxBudget) : execEvPoll i s = finishRecvB i .timeOut s := by
  rw [execEvPoll, withUs_some hu, if_neg (not_not.2 hp), if_pos hb]

theorem execEvPoll_of_received {i : Byte} {s : State} {u : Usart} (hu : usart? s i = some u)
    (hp : u.rb.phase = .spinning) (hb : u.rb.spin ≠ s.cfg.rxBudget) (hr : u.rxne = true) :
    execEvPoll i s = finishRecvB i .ok s := by
  rw [execEvPoll, withUs_some hu, if_neg (not_not.2 hp), if_neg hb, if_pos hr]

theorem execEvPoll_of_waiting {i : Byte} {s : State} {u : Usart} (hu : usart? s i = some u)
    (hp : u.rb.phase = .spinning) (hb : u.rb.spin ≠ s.cfg.rxBudget) (hr : u.rxne = false) :
    execEvPoll i s = .next (modUs i Usart.spinOnce s) := by
  rw [execEvPoll, withUs_some hu, if_neg (not_not.2 hp), if_neg hb, if_neg (by simp [hr])]

/-- The record at the end of a blocking receive, with the OR defect or its fix (R178, R179). -/
theorem recvBEnd_eq (fix : Bool) (u : Usart) :
    recvBEnd fix u = { u with
      rxne := false, cr := if fix = true then u.cr &&& 0xFFFB else u.cr ||| 0xFFFB,
      rx := { u.rx with state := .idle }, rb := { u.rb with phase := .none } } := by
  cases fix <;> rfl

/-- The outcome of `finish`: the code returned, the byte stored and the record left (R178). -/
theorem finishRecvB_stores {i : Byte} {s : State} {u : Usart} (hu : usart? s i = some u)
    (ha : admits s.cfg u.rb.buf = true) (c : UsStatus) :
    ∃ t, finishRecvB i c s = .next t ∧ t.port = { s.port with r0 := usCode c } ∧
      t.trace = s.trace ++ [.ret (usCode c)] ∧ bufByte t.buf u.rb.buf.toNat = u.drRx ∧ SameBufBut u.rb.buf s t ∧
      usart? t i = some { u with
        rxne := false, cr := if s.cfg.recvbFix = true then u.cr &&& 0xFFFB else u.cr ||| 0xFFFB,
        rx := { u.rx with state := .idle }, rb := { u.rb with phase := .none } } := by
  refine ⟨_, finishRecvB_next.2 ⟨u, hu, ha, rfl⟩, rfl, rfl, bufByte_write_same _ _ _,
    fun x hx => bufByte_write_other s.buf u.drRx hx, ?_⟩
  exact (usart?_modUs_some _ hu).trans (congrArg some (recvBEnd_eq _ u))

/-- Settles O29: the four cases of the spin; both ends are `finish`. -/
theorem pollEndsOrCounts : Obligations.PollEndsOrCounts := by
  intro s i u hu
  refine ⟨execEvPoll_of_not_spinning hu, fun hp hb ha => ?_, fun hp hb hr ha => ?_, fun hp hb hr => ?_⟩
  · obtain ⟨t, ht, h⟩ := finishRecvB_stores hu ha .timeOut
    exact ⟨t, (execEvPoll_of_timeOut hu hp hb).trans ht, h⟩
  · obtain ⟨t, ht, h⟩ := finishRecvB_stores hu ha .ok
    exact ⟨t, (execEvPoll_of_received hu hp hb hr).trans ht, h⟩
  · exact ⟨_, execEvPoll_of_waiting hu hp hb hr, rfl, rfl, rfl, usart?_modUs_some _ hu⟩

/-- What every step of a spin leaves alone in its USART (R177 to R179). -/
abbrev PollRecord (u v : Usart) : Prop :=
  v.tc = u.tc ∧ v.txInflight = u.txInflight ∧ v.drRx = u.drRx ∧ v.brr = u.brr ∧ v.stop = u.stop ∧ v.tx = u.tx ∧
    v.rx.buf = u.rx.buf ∧ v.rx.pos = u.rx.pos ∧ v.rx.size = u.rx.size ∧ v.rx.cb = u.rx.cb ∧ v.rb.buf = u.rb.buf

theorem recvBEnd_pollRecord (fix : Bool) (u : Usart) : PollRecord u (recvBEnd fix u) := by
  rw [recvBEnd_eq]
  exact ⟨rfl, rfl, rfl, rfl, rfl, rfl, rfl, rfl, rfl, rfl, rfl⟩

theorem spinOnce_pollRecord (u : Usart) : PollRecord u u.spinOnce :=
  ⟨rfl, rfl, rfl, rfl, rfl, rfl, rfl, rfl, rfl, rfl, rfl⟩

/-- What every step of a spin leaves alone, with the byte of BUF it may write (R160). -/
structure PollKept (i : Byte) (s t : State) (u v : Usart) : Prop where
  frame : SameFrame s t
  operands : SameOperands s t
  sch : t.sch = s.sch
  st : t.st = s.st
  lcd : t.lcd = s.lcd
  accepts : t.accepts = s.accepts
  draws : t.draws = s.draws
  others : SameOtherUs i s t
  buf : SameBufBut u.rb.buf s t
  own : PollRecord u v

theorem finishRecvB_kept {i : Byte} {c : UsStatus} {s t : State} {u v : Usart} (h : finishRecvB i c s = .next t)
    (hu : usart? s i = some u) (hv : usart? t i = some v) : PollKept i s t u v := by
  obtain ⟨w, hw, -, rfl⟩ := finishRecvB_next.1 h
  obtain rfl : u = w := Option.some.inj (hu.symm.trans hw)
  obtain rfl : recvBEnd s.cfg.recvbFix u = v := Option.some.inj ((usart?_modUs_some _ hu).symm.trans hv)
  exact ⟨⟨rfl, rfl⟩, ⟨rfl, rfl, rfl⟩, rfl, rfl, rfl, rfl, rfl, sameOtherUs_modUs i _ s,
    fun x hx => bufByte_write_other s.buf u.drRx hx, recvBEnd_pollRecord _ u⟩

theorem spinOnce_kept {i : Byte} {s : State} {u v : Usart} (hu : usart? s i = some u)
    (hv : usart? (modUs i Usart.spinOnce s) i = some v) : PollKept i s (modUs i Usart.spinOnce s) u v := by
  obtain rfl : u.spinOnce = v := Option.some.inj ((usart?_modUs_some _ hu).symm.trans hv)
  exact ⟨⟨rfl, rfl⟩, ⟨rfl, rfl, rfl⟩, rfl, rfl, rfl, rfl, rfl, sameOtherUs_modUs i _ s, fun _ _ => rfl,
    spinOnce_pollRecord u⟩

theorem execEvPoll_kept {i : Byte} {s t : State} {u v : Usart} (h : execEvPoll i s = .next t)
    (hu : usart? s i = some u) (hv : usart? t i = some v) : PollKept i s t u v := by
  obtain ⟨-, -, -, ⟨-, h⟩ | ⟨-, -, h⟩ | ⟨-, -, rfl⟩⟩ := execEvPoll_next h
  · exact finishRecvB_kept h hu hv
  · exact finishRecvB_kept h hu hv
  · exact spinOnce_kept hu hv

/-- Settles O42: the shared frame, and that a mere spin changes the count alone. -/
theorem pollFrame : Obligations.PollFrame := by
  intro s t i u v h hu hv
  have hf : PollKept i s t u v := execEvPoll_kept h hu hv
  obtain ⟨htc, hfl, hdr, hbrr, hstop, htx, hbuf, hpos, hsize, hcb, hrb⟩ := hf.own
  refine ⟨hf.frame, hf.operands, hf.sch, hf.st, hf.lcd, hf.accepts, hf.draws, hf.others, hf.buf, htc, hfl, hdr, hbrr,
    hstop, htx, hbuf, hpos, hsize, hcb, hrb, fun hb hr => ?_⟩
  have hp : u.rb.phase = .spinning := by
    obtain ⟨w, hw, hp, -⟩ := execEvPoll_next h
    exact Option.some.inj (hu.symm.trans hw) ▸ hp
  obtain rfl : modUs i Usart.spinOnce s = t :=
    Host.Outcome.next.inj ((execEvPoll_of_waiting hu hp hb hr).symm.trans h)
  obtain rfl : u.spinOnce = v := Option.some.inj ((usart?_modUs_some _ hu).symm.trans hv)
  exact ⟨rfl, rfl, rfl, rfl, fun _ => rfl⟩

end Sys2Proof.Machine
end

section
/-! SUPPORT. The interrupt handler: its two branches, and what a run leaves alone (41_usart.md R190 to R192). -/

namespace Sys2Proof.Machine

/-! ## The gate of a branch -/

theorem gated_iff {g : IrqGate} {flag enable : Bool} :
    gated g flag enable = true ↔ flag = true ∧ (g = .flagOnly ∨ enable = true) := by
  cases g <;> simp [gated]

theorem irqTx_of_open {i : Byte} {s : State} {u : Usart} (hu : usart? s i = some u)
    (hg : gated s.cfg.irqGate u.tc (crBit u.cr bitTcie) = true) : irqTx i s = txBranch i s := by
  rw [irqTx, withUs_some hu, if_pos hg]

theorem irqTx_of_closed {i : Byte} {s : State} {u : Usart} (hu : usart? s i = some u)
    (hg : gated s.cfg.irqGate u.tc (crBit u.cr bitTcie) = false) : irqTx i s = .next s := by
  rw [irqTx, withUs_some hu, if_neg (ne_true_of_eq_false hg)]

theorem irqRx_of_open {i : Byte} {s : State} {u : Usart} (hu : usart? s i = some u)
    (hg : gated s.cfg.irqGate u.rxne (crBit u.cr bitRxneie) = true) : irqRx i s = rxBranch i s := by
  rw [irqRx, withUs_some hu, if_pos hg]

theorem irqRx_of_closed {i : Byte} {s : State} {u : Usart} (hu : usart? s i = some u)
    (hg : gated s.cfg.irqGate u.rxne (crBit u.cr bitRxneie) = false) : irqRx i s = .next s := by
  rw [irqRx, withUs_some hu, if_neg (ne_true_of_eq_false hg)]

/-- R190's condition of a branch, on what the branch answers. -/
theorem gate_eq_next {g : IrqGate} {flag enable : Bool} {o : Res State} {s t : State} :
    (if gated g flag enable = true then o else .next s) = .next t ↔
      if flag = true ∧ (g = .flagOnly ∨ enable = true) then o = .next t else t = s := by
  by_cases h : gated g flag enable = true
  · rw [if_pos h, if_pos (gated_iff.1 h)]
  · rw [if_neg h, if_neg (mt gated_iff.2 h), Host.Outcome.next.injEq, eq_comm]

theorem irqTx_eq_next {i : Byte} {s m : State} {u : Usart} (hu : usart? s i = some u) :
    irqTx i s = .next m ↔
      if u.tc = true ∧ (s.cfg.irqGate = .flagOnly ∨ crBit u.cr 6 = true) then txBranch i s = .next m else m = s := by
  rw [irqTx, withUs_some hu]
  exact gate_eq_next

theorem irqRx_eq_next {i : Byte} {s m : State} {u : Usart} (hu : usart? s i = some u) :
    irqRx i s = .next m ↔
      if u.rxne = true ∧ (s.cfg.irqGate = .flagOnly ∨ crBit u.cr 5 = true) then rxBranch i s = .next m else m = s := by
  rw [irqRx, withUs_some hu]
  exact gate_eq_next

/-! ## Changes of one record, and completion -/

theorem modUs_eq_set {i : Byte} {s : State} {u : Usart} (hu : usart? s i = some u) (f : Usart → Usart) :
    modUs i f s = { s with us := s.us.set i.toNat (f u) } := by
  have hu' : s.us[i.toNat]? = some u := hu
  simp [modUs, List.modify_eq_set_getElem?, hu']

/-- Clearing two fields of CR is one AND (R191, R192). -/
theorem crSet_false_false (cr : Half) (j k : Nat) :
    crSet (crSet cr j false) k false = cr &&& (~~~(BitVec.twoPow 16 j) &&& ~~~(BitVec.twoPow 16 k)) := by
  rw [crSet_false, crSet_false, BitVec.and_assoc]

theorem txComplete_eq (u : Usart) :
    u.txComplete = { u with cr := u.cr &&& 0xFFB7, tx := { u.tx with state := .idle } } := by
  have hcr : crSet (crSet u.cr bitTxen false) bitTcie false = u.cr &&& 0xFFB7 := crSet_false_false u.cr bitTxen bitTcie
  rw [← hcr]
  rfl

theorem rxComplete_eq (u : Usart) :
    u.rxComplete = { u with cr := u.cr &&& 0xFFDB, rx := { u.rx with state := .idle } } := by
  have hcr : crSet (crSet u.cr bitRxen false) bitRxneie false = u.cr &&& 0xFFDB :=
    crSet_false_false u.cr bitRxen bitRxneie
  rw [← hcr]
  rfl

/-- A completion callback in its two cases (R191, R192, R276). -/
theorem completionCallback_answers (ev : Event) (cb : Word) (s : State) :
    (cb = 0 → completionCallback ev cb s = .next s) ∧
      (cb ≠ 0 → ∀ t, invoke cb { s with trace := s.trace ++ [ev] } = .next t →
        completionCallback ev cb s = .next t) :=
  ⟨fun h0 => if_pos h0, fun h0 _ ht => (if_neg h0).trans ht⟩

/-- What a completion callback leaves alone (R286). -/
theorem completionCallback_keeps {ev : Event} {cb : Word} {s t : State} (h : completionCallback ev cb s = .next t) :
    t.buf = s.buf ∧ (cb ≠ s.cfg.schTick → t.sch = s.sch) ∧ (cb ≠ s.cfg.cbLcd → t.lcd = s.lcd) := by
  obtain ⟨-, rfl⟩ | ⟨-, h⟩ := completionCallback_cases h
  · exact ⟨rfl, fun _ => rfl, fun _ => rfl⟩
  · obtain ⟨-, -, -, -, hbuf, -⟩ := invoke_frame h
    obtain ⟨hsch, hlcd⟩ := invoke_keeps h
    exact ⟨hbuf, hsch, hlcd⟩

/-! ## The branches answer -/

theorem txBranch_of_push {i : Byte} {s : State} {u : Usart} (hu : usart? s i = some u) (hlt : u.tx.pos < u.tx.size)
    (hen : crBit u.cr bitTxen = true) (hf : u.txInflight = none) (ha : admits s.cfg (u.tx.buf + u.tx.pos) = true) :
    txBranch i s = .next (emit (.txFrame i (bufByte s.buf (u.tx.buf + u.tx.pos).toNat))
      (modUs i (Usart.txAdvance ∘ Usart.startFrame (bufByte s.buf (u.tx.buf + u.tx.pos).toNat)) s)) := by
  rw [txBranch, withUs_some hu, if_pos hlt, txAddr, load_admitted ha, andThen_next,
    writeDR_next.2 ⟨u, hu, hen, hf, rfl⟩, andThen_next, modUs_emit, modUs_modUs]

theorem txBranch_of_complete {i : Byte} {s : State} {u : Usart} (hu : usart? s i = some u)
    (hge : ¬ u.tx.pos < u.tx.size) :
    txBranch i s = completionCallback (.txCb i u.tx.cb) u.tx.cb (modUs i Usart.txComplete s) := by
  rw [txBranch, withUs_some hu, if_neg hge]

/-- The state after the Rx branch has stored a byte (R192). -/
def rxByteStored (i : Byte) (u : Usart) (s : State) : State :=
  { modUs i rxStored s with buf := Memory.write s.buf (u.rx.buf + u.rx.pos).toNat u.drRx }

theorem rxBranch_of_store {i : Byte} {s : State} {u : Usart} (hu : usart? s i = some u) (hlt : u.rx.pos < u.rx.size)
    (ha : admits s.cfg (u.rx.buf + u.rx.pos) = true) :
    rxBranch i s =
      if s.cfg.rxCompleteEager = true ∧ u.rx.pos + 1 = u.rx.size then completeRx i u.rx.cb (rxByteStored i u s)
      else .next (rxByteStored i u s) := by
  have hm : modUs i Usart.rxAdvance { modUs i (fun u => { u with rxne := false }) s with
      buf := Memory.write s.buf (u.rx.buf + u.rx.pos).toNat u.drRx } = rxByteStored i u s := by
    rw [modUs_withBuf, modUs_modUs]
    rfl
  have hs : store (rxAddr u) u.drRx (modUs i (fun u => { u with rxne := false }) s) = .next _ := store_admitted _ ha
  rw [rxBranch, withUs_some hu, if_pos hlt, readDR_next.2 ⟨u, hu, rfl⟩, andThen_next, hs, andThen_next, ← hm]
  rfl

theorem rxBranch_of_complete {i : Byte} {s : State} {u : Usart} (hu : usart? s i = some u)
    (hge : ¬ u.rx.pos < u.rx.size) : rxBranch i s = completeRx i u.rx.cb s := by
  rw [rxBranch, withUs_some hu, if_neg hge]

/-! ## What a branch leaves alone -/

/-- What a handler branch of USART `i` leaves alone on every path, and the relation `R` between the records of `i`
before and after (R160). -/
structure BranchFrame (R : Usart → Usart → Prop) (i : Byte) (s t : State) : Prop where
  frame : SameFrame s t
  port : t.port = s.port
  st : t.st = s.st
  accepts : t.accepts = s.accepts
  draws : t.draws = s.draws
  others : SameOtherUs i s t
  position : t.sch.position = s.sch.position
  own : ∀ u, usart? s i = some u → ∃ v, usart? t i = some v ∧ R u v

theorem BranchFrame.refl {R : Usart → Usart → Prop} (hR : ∀ u, R u u) (i : Byte) (s : State) : BranchFrame R i s s :=
  ⟨⟨rfl, rfl⟩, rfl, rfl, rfl, rfl, ⟨rfl, fun _ _ => rfl⟩, rfl, fun u hu => ⟨u, hu, hR u⟩⟩

theorem BranchFrame.trans {R Q : Usart → Usart → Prop} {i : Byte} {s m t : State} (h1 : BranchFrame R i s m)
    (h2 : BranchFrame Q i m t) : BranchFrame (Relation.Comp R Q) i s t := by
  obtain ⟨hcfg1, henv1⟩ := h1.frame
  obtain ⟨hcfg2, henv2⟩ := h2.frame
  obtain ⟨hlen1, hus1⟩ := h1.others
  obtain ⟨hlen2, hus2⟩ := h2.others
  refine ⟨⟨hcfg2.trans hcfg1, henv2.trans henv1⟩, h2.port.trans h1.port, h2.st.trans h1.st,
    h2.accepts.trans h1.accepts, h2.draws.trans h1.draws,
    ⟨hlen2.trans hlen1, fun j hj => (hus2 j hj).trans (hus1 j hj)⟩, h2.position.trans h1.position, fun u hu => ?_⟩
  obtain ⟨v, hv, hR⟩ := h1.own u hu
  obtain ⟨w, hw, hQ⟩ := h2.own v hv
  exact ⟨w, hw, v, hR, hQ⟩

theorem branchFrame_modUs {R : Usart → Usart → Prop} {f : Usart → Usart} (hR : ∀ u, R u (f u)) (i : Byte) (s : State) :
    BranchFrame R i s (modUs i f s) :=
  ⟨⟨rfl, rfl⟩, rfl, rfl, rfl, rfl, sameOtherUs_modUs i f s, rfl, fun u hu => ⟨f u, usart?_modUs_some f hu, hR u⟩⟩

theorem BranchFrame.emit {R : Usart → Usart → Prop} {i : Byte} {s t : State} (h : BranchFrame R i s t) (e : Event) :
    BranchFrame R i s (emit e t) := { h with }

theorem BranchFrame.setBuf {R : Usart → Usart → Prop} {i : Byte} {s t : State} (h : BranchFrame R i s t) (m : Memory) :
    BranchFrame R i s { t with buf := m } := { h with }

theorem BranchFrame.completionCallback {R : Usart → Usart → Prop} {i : Byte} {s m t : State}
    (h : BranchFrame R i s m) {ev : Event} {cb : Word} (hc : completionCallback ev cb m = .next t) :
    BranchFrame R i s t := by
  obtain ⟨-, rfl⟩ | ⟨-, hc⟩ := completionCallback_cases hc
  · exact h
  · obtain ⟨hcfg, hport, hst, hus, -, hacc, henv, hdraws, -⟩ := invoke_frame hc
    have hsame (j : Byte) : usart? t j = usart? m j := by rw [usart?, hus]; rfl
    refine ⟨⟨hcfg.trans h.frame.1, henv.trans h.frame.2⟩, hport.trans h.port, hst.trans h.st, hacc.trans h.accepts,
      hdraws.trans h.draws, ⟨by rw [hus]; exact h.others.1, fun j hj => (hsame j).trans (h.others.2 j hj)⟩,
      (invoke_position hc).trans h.position, fun u hu => ?_⟩
    obtain ⟨v, hv, hR⟩ := h.own u hu
    exact ⟨v, (hsame i).trans hv, hR⟩

/-- What the Tx branch keeps of its USART (R191). -/
structure TxKept (u v : Usart) : Prop where
  cr : SameCrBut [3, 6] u v
  brr : v.brr = u.brr
  stop : v.stop = u.stop
  rxne : v.rxne = u.rxne
  drRx : v.drRx = u.drRx
  rx : v.rx = u.rx
  rb : v.rb = u.rb
  buf : v.tx.buf = u.tx.buf
  size : v.tx.size = u.tx.size
  cb : v.tx.cb = u.tx.cb

/-- What the Rx branch keeps of its USART (R192). -/
structure RxKept (u v : Usart) : Prop where
  cr : SameCrBut [2, 5] u v
  brr : v.brr = u.brr
  stop : v.stop = u.stop
  drRx : v.drRx = u.drRx
  tx : v.tx = u.tx
  rb : v.rb = u.rb
  buf : v.rx.buf = u.rx.buf
  size : v.rx.size = u.rx.size
  cb : v.rx.cb = u.rx.cb

theorem txKept_refl (u : Usart) : TxKept u u := ⟨fun _ _ => rfl, rfl, rfl, rfl, rfl, rfl, rfl, rfl, rfl, rfl⟩

theorem rxKept_refl (u : Usart) : RxKept u u := ⟨fun _ _ => rfl, rfl, rfl, rfl, rfl, rfl, rfl, rfl, rfl⟩

theorem txPushed_kept (b : Byte) (u : Usart) : TxKept u (Usart.txAdvance (u.startFrame b)) := { txKept_refl u with }

theorem rxStored_kept (u : Usart) : RxKept u (rxStored u) := { rxKept_refl u with }

theorem txComplete_kept (u : Usart) : TxKept u u.txComplete :=
  { txKept_refl u with
    cr := fun k hk => by
      obtain ⟨h3, h6⟩ : k ≠ 3 ∧ k ≠ 6 := by simpa using hk
      exact (crBit_crSet_other _ _ h6).trans (crBit_crSet_other _ _ h3) }

theorem rxComplete_kept (u : Usart) : RxKept u u.rxComplete :=
  { rxKept_refl u with
    cr := fun k hk => by
      obtain ⟨h2, h5⟩ : k ≠ 2 ∧ k ≠ 5 := by simpa using hk
      exact (crBit_crSet_other _ _ h5).trans (crBit_crSet_other _ _ h2) }

theorem rxStoredComplete_kept (u : Usart) : RxKept u (rxStored u).rxComplete :=
  { rxComplete_kept u with }

/-- The Tx branch: its frame, with the rest of BUF, and the scheduler and the LCD as far as its callback leaves them. -/
theorem txBranch_frame {i : Byte} {s t : State} {u : Usart} (h : txBranch i s = .next t) (hu : usart? s i = some u) :
    BranchFrame TxKept i s t ∧ t.buf = s.buf ∧
      ((¬ u.tx.pos < u.tx.size → u.tx.cb ≠ s.cfg.schTick) → t.sch = s.sch) ∧
      ((¬ u.tx.pos < u.tx.size → u.tx.cb ≠ s.cfg.cbLcd) → t.lcd = s.lcd) := by
  obtain ⟨w, hw, hcases⟩ := txBranch_next h
  obtain rfl : u = w := Option.some.inj (hu.symm.trans hw)
  obtain ⟨-, -, -, rfl⟩ | ⟨hge, h⟩ := hcases
  · exact ⟨(branchFrame_modUs (txPushed_kept _) i s).emit _, rfl, fun _ => rfl, fun _ => rfl⟩
  · obtain ⟨hbuf, hsch, hlcd⟩ := completionCallback_keeps h
    exact ⟨(branchFrame_modUs txComplete_kept i s).completionCallback h, hbuf, fun hn => hsch (hn hge),
      fun hn => hlcd (hn hge)⟩

theorem irqTx_frame {i : Byte} {s t : State} {u : Usart} (h : irqTx i s = .next t) (hu : usart? s i = some u) :
    BranchFrame TxKept i s t ∧ t.buf = s.buf ∧
      ((TxCompletes s.cfg u → u.tx.cb ≠ s.cfg.schTick) → t.sch = s.sch) ∧
      ((TxCompletes s.cfg u → u.tx.cb ≠ s.cfg.cbLcd) → t.lcd = s.lcd) := by
  obtain ⟨w, hw, hcases⟩ := irqTx_next h
  obtain rfl : u = w := Option.some.inj (hu.symm.trans hw)
  obtain ⟨hg, h⟩ | ⟨-, rfl⟩ := hcases
  · obtain ⟨hf, hbuf, hsch, hlcd⟩ := txBranch_frame h hu
    exact ⟨hf, hbuf, fun hn => hsch fun hge => hn ⟨hg, hge⟩, fun hn => hlcd fun hge => hn ⟨hg, hge⟩⟩
  · exact ⟨.refl txKept_refl i t, rfl, fun _ => rfl, fun _ => rfl⟩

/-- The Rx branch likewise; the byte it stores, if it does, is the only one of BUF that changes. -/
theorem irqRx_frame {i : Byte} {s t : State} {u : Usart} (h : irqRx i s = .next t) (hu : usart? s i = some u) :
    BranchFrame RxKept i s t ∧ SameBufBut (u.rx.buf + u.rx.pos) s t ∧ (¬ RxStores s.cfg u → t.buf = s.buf) ∧
      ((RxCompletes s.cfg u → u.rx.cb ≠ s.cfg.schTick) → t.sch = s.sch) ∧
      ((RxCompletes s.cfg u → u.rx.cb ≠ s.cfg.cbLcd) → t.lcd = s.lcd) := by
  obtain ⟨w, hw, hcases⟩ := irqRx_next h
  obtain rfl : u = w := Option.some.inj (hu.symm.trans hw)
  obtain ⟨hg, h⟩ | ⟨-, rfl⟩ := hcases
  swap
  · exact ⟨.refl rxKept_refl i t, fun _ _ => rfl, fun _ => rfl, fun _ => rfl, fun _ => rfl⟩
  have stored (x : Nat) (hx : x ≠ (u.rx.buf + u.rx.pos).toNat) :
      bufByte (Memory.write s.buf (u.rx.buf + u.rx.pos).toNat u.drRx) x = bufByte s.buf x :=
    bufByte_write_other s.buf u.drRx hx
  obtain ⟨w, hw, hcases⟩ := rxBranch_next h
  obtain rfl : u = w := Option.some.inj (hu.symm.trans hw)
  obtain ⟨hlt, -, -, rfl⟩ | ⟨hlt, -, hlast, h⟩ | ⟨hge, h⟩ := hcases
  · exact ⟨(branchFrame_modUs rxStored_kept i s).setBuf _, stored, fun hn => absurd ⟨hg, hlt⟩ hn, fun _ => rfl,
      fun _ => rfl⟩
  · obtain ⟨hbuf, hsch, hlcd⟩ := completionCallback_keeps h
    refine ⟨?_, fun x hx => by rw [hbuf]; exact stored x hx, fun hn => absurd ⟨hg, hlt⟩ hn,
      fun hn => hsch (hn ⟨hg, .inr hlast⟩), fun hn => hlcd (hn ⟨hg, .inr hlast⟩)⟩
    rw [completeRx, modUs_withBuf, modUs_modUs] at h
    exact ((branchFrame_modUs rxStoredComplete_kept i s).setBuf _).completionCallback h
  · obtain ⟨hbuf, hsch, hlcd⟩ := completionCallback_keeps h
    exact ⟨(branchFrame_modUs rxComplete_kept i s).completionCallback h, fun x _ => by rw [hbuf]; rfl, fun _ => hbuf,
      fun hn => hsch (hn ⟨hg, .inl hge⟩), fun hn => hlcd (hn ⟨hg, .inl hge⟩)⟩

/-- Settles O38: a run is its two halves, each of them its branch or nothing, by its gate. -/
theorem irqServesTxThenRx : Obligations.IrqServesTxThenRx := by
  intro s t i hp
  constructor
  · intro h
    obtain ⟨-, m, htx, hrx⟩ := execEvIrq_next.1 h
    obtain ⟨u, hu, -⟩ := irqTx_next htx
    obtain ⟨v, hv, -⟩ := irqRx_next hrx
    have hcfg : m.cfg = s.cfg := (irqTx_frame htx hu).1.frame.1
    exact ⟨m, u, v, hu, hv, (irqTx_eq_next hu).1 htx, hcfg ▸ (irqRx_eq_next hv).1 hrx⟩
  · rintro ⟨m, u, v, hu, hv, htx, hrx⟩
    have htx := (irqTx_eq_next hu).2 htx
    have hcfg : m.cfg = s.cfg := (irqTx_frame htx hu).1.frame.1
    exact execEvIrq_next.2 ⟨hp, m, htx, (irqRx_eq_next hv).2 (hcfg ▸ hrx)⟩

/-- What the Rx branch tests and uses is as it was before the Tx branch (D21). -/
theorem TxKept.rx_tests {c : Config} {u v : Usart} (h : TxKept u v) :
    (RxStores c v ↔ RxStores c u) ∧ (RxCompletes c v ↔ RxCompletes c u) := by
  have hen : crBit v.cr bitRxneie = crBit u.cr bitRxneie := h.cr _ (by decide)
  simp only [RxStores, RxCompletes, h.rxne, h.rx, hen, and_self]

/-- Settles O41: the frames of the two halves, one after the other. -/
theorem irqFrame : Obligations.IrqFrame := by
  intro s t i u w h hu hw
  obtain ⟨-, m, htx, hrx⟩ := execEvIrq_next.1 h
  obtain ⟨hftx, hbuftx, hschtx, hlcdtx⟩ := irqTx_frame htx hu
  obtain ⟨v, hv, huv⟩ := hftx.own u hu
  obtain ⟨hfrx, hbutrx, hbufrx, hschrx, hlcdrx⟩ := irqRx_frame hrx hv
  obtain ⟨w', hw', hvw⟩ := hfrx.own v hv
  obtain rfl : w = w' := Option.some.inj (hw.symm.trans hw')
  have hf := hftx.trans hfrx
  obtain ⟨helapsed, hphase, hidx⟩ : t.sch.elapsedMs = s.sch.elapsedMs ∧ t.sch.phase = s.sch.phase ∧
      t.sch.idx = s.sch.idx := by
    simpa [Sched.position] using hf.position
  have hcfg : m.cfg = s.cfg := hftx.frame.1
  obtain ⟨hstores, hcompletes⟩ := huv.rx_tests (c := s.cfg)
  rw [hcfg, hcompletes, huv.rx] at hschrx hlcdrx
  rw [hcfg, hstores] at hbufrx
  rw [huv.rx] at hbutrx
  have hcr : SameCrBut [2, 3, 5, 6] u w := fun k hk => by
    obtain ⟨h2, h3, h5, h6⟩ : k ≠ 2 ∧ k ≠ 3 ∧ k ≠ 5 ∧ k ≠ 6 := by simpa using hk
    exact (hvw.cr k (by simp [h2, h5])).trans (huv.cr k (by simp [h3, h6]))
  refine ⟨hf.frame, hf.port, hf.st, hf.accepts, hf.draws, hf.others, fun x hx => ?_, fun hn x => ?_, helapsed, hphase,
    hidx, fun h1 h2 => (hschrx h2).trans (hschtx h1), fun h1 h2 => (hlcdrx h2).trans (hlcdtx h1), hcr,
    hcr.sameFormat (by decide) (hvw.brr.trans huv.brr) (hvw.stop.trans huv.stop), hvw.drRx.trans huv.drRx,
    hvw.rb.trans huv.rb, ?_, ?_, ?_, ?_, ?_, ?_⟩
  · rw [hbutrx x hx, hbuftx]
  · rw [hbufrx hn, hbuftx]
  · rw [hvw.tx, huv.buf]
  · rw [hvw.tx, huv.size]
  · rw [hvw.tx, huv.cb]
  · rw [hvw.buf, huv.rx]
  · rw [hvw.size, huv.rx]
  · rw [hvw.cb, huv.rx]

/-! ## A run with one cause -/

/-- A handler run without an Rx cause is its Tx branch, which leaves what the Rx branch tests alone (R190). -/
theorem execEvIrq_of_tx_only {i : Byte} {s t : State} {u : Usart} (hu : usart? s i = some u)
    (hn : nvicEn s.cfg i = true) (hf : u.tc = true) (he : crBit u.cr bitTcie = true)
    (hrx : gated s.cfg.irqGate u.rxne (crBit u.cr bitRxneie) = false) (ht : txBranch i s = .next t) :
    execEvIrq i s = .next t := by
  have hp : irqPending s i = true := irqPending_of_cause hu hn (.inl (by simp [Usart.txCause, hf, he]))
  obtain ⟨hframe, -⟩ := txBranch_frame ht hu
  obtain ⟨v, hv, huv⟩ := hframe.own u hu
  have hclosed : gated t.cfg.irqGate v.rxne (crBit v.cr bitRxneie) = false := by
    rw [hframe.frame.1, huv.rxne, huv.cr bitRxneie (by decide)]
    exact hrx
  rw [execEvIrq_of_pending hu hp, irqTx_of_open hu (gated_of_flag_enable _ hf he), ht, andThen_next,
    irqRx_of_closed hv hclosed]

/-- Settles O39: a run of the Tx branch alone, below the size and from it on. -/
theorem irqTxPushesOrCompletes : Obligations.IrqTxPushesOrCompletes := by
  intro s i u hu hn hf he hrx
  have runs {t : State} : txBranch i s = .next t → exec (.evIrq i) s = .next t := execEvIrq_of_tx_only hu hn hf he hrx
  refine ⟨fun hlt hen hfree ha => ⟨_, runs (txBranch_of_push hu hlt hen hfree ha), rfl, ?_⟩, fun hge => ?_⟩
  · exact usart?_modUs_some _ hu
  · have hb := txBranch_of_complete hu hge
    rw [modUs_eq_set hu, txComplete_eq] at hb
    obtain ⟨hnull, hcb⟩ := completionCallback_answers (.txCb i u.tx.cb) u.tx.cb { s with
      us := s.us.set i.toNat { u with cr := u.cr &&& 0xFFB7, tx := { u.tx with state := .idle } } }
    exact ⟨fun h0 => runs (hb.trans (hnull h0)), fun h0 t ht => runs (hb.trans (hcb h0 t ht))⟩

/-- Settles O40: a run of the Rx branch alone, below the size, at the last byte and from the size on. -/
theorem irqRxStoresOrCompletes : Obligations.IrqRxStoresOrCompletes := by
  intro s i u hu hn hf he htx
  have runs : exec (.evIrq i) s = rxBranch i s := execEvIrq_of_rx_only hu hn htx hf he
  refine ⟨fun hlt ha => ?_, fun hge => ?_⟩
  · have hb := runs.trans (rxBranch_of_store hu hlt ha)
    refine ⟨rxByteStored i u s, ?_, bufByte_write_same _ _ _, fun x hx => bufByte_write_other s.buf u.drRx hx,
      fun hlast => hb.trans (if_neg ?_), fun heager hlast => ?_⟩
    · rw [rxByteStored, modUs_eq_set hu]
      exact store_admitted _ ha
    · rintro ⟨h1, h2⟩
      exact hlast.elim (fun h => by rw [h] at h1; cases h1) (fun h => h h2)
    · rw [if_pos ⟨heager, hlast⟩, completeRx, rxByteStored, modUs_withBuf, modUs_modUs, modUs_eq_set hu] at hb
      rw [Function.comp_apply, rxComplete_eq] at hb
      obtain ⟨hnull, hcb⟩ := completionCallback_answers (.rxCb i u.rx.cb) u.rx.cb _
      exact ⟨fun h0 => hb.trans (hnull h0), fun h0 t ht => hb.trans (hcb h0 t ht)⟩
  · have hb := runs.trans (rxBranch_of_complete hu hge)
    rw [completeRx, modUs_eq_set hu, rxComplete_eq] at hb
    obtain ⟨hnull, hcb⟩ := completionCallback_answers (.rxCb i u.rx.cb) u.rx.cb { s with
      us := s.us.set i.toNat { u with cr := u.cr &&& 0xFFDB, rx := { u.rx with state := .idle } } }
    exact ⟨fun h0 => hb.trans (hnull h0), fun h0 t ht => hb.trans (hcb h0 t ht)⟩

end Sys2Proof.Machine
end

section
/-! SUPPORT. Updates of the state that an operation on a USART neither reads nor writes: the way an accept is taken
(41_usart.md R171), and the record of another USART (R160). -/

namespace Sys2Proof.Machine

/-! ## Bystanders -/

/-- An update `g` of the state that the updates an operation on USART `i` makes commute with, and that leaves alone what
it reads. -/
structure Bystander (i : Byte) (g : State → State) : Prop where
  usart : ∀ s, usart? (g s) i = usart? s i
  admits : ∀ s a, admits (g s).cfg a = admits s.cfg a
  buf : ∀ s, (g s).buf = s.buf
  modUs : ∀ f s, g (modUs i f s) = Machine.modUs i f (g s)
  emit : ∀ e s, g (emit e s) = Machine.emit e (g s)
  ret : ∀ k s, g (ret k s) = Machine.ret k (g s)

/-- The way accepts are taken is read by the command alone (R171). -/
theorem bystander_withAtomic (i : Byte) (b : Bool) : Bystander i (withAtomic b) :=
  ⟨fun _ => rfl, fun _ _ => rfl, fun _ => rfl, fun _ _ => rfl, fun _ _ => rfl, fun _ _ => rfl⟩

theorem modUs_comm {i j : Byte} (h : j ≠ i) (f g : Usart → Usart) (s : State) :
    modUs j g (modUs i f s) = modUs i f (modUs j g s) := by
  have hne : j.toNat ≠ i.toNat := fun e => h (BitVec.eq_of_toNat_eq e)
  simp only [modUs, List.modify_modify_ne g f s.us hne]

/-- The record of another USART (R160). -/
theorem bystander_modUs {i j : Byte} (h : j ≠ i) (g : Usart → Usart) : Bystander i (modUs j g) :=
  ⟨fun s => usart?_modUs_other g s h.symm, fun _ _ => rfl, fun _ => rfl, fun f s => modUs_comm h f g s, fun _ _ => rfl,
    fun _ _ => rfl⟩

section
variable {i : Byte} {g : State → State} {s t : State}

theorem Bystander.sendBStepB {a0 : Word} (hg : Bystander i g) (h : sendBStepB i a0 s = .next t) :
    sendBStepB i a0 (g s) = .next (g t) := by
  obtain ⟨u, hu, ha, hf, rfl⟩ := sendBStepB_next.1 h
  exact sendBStepB_next.2 ⟨u, (hg.usart s).trans hu, (hg.admits s a0).trans ha, hf, by
    rw [hg.ret, hg.emit, hg.modUs, hg.buf]⟩

theorem Bystander.sendAStepB {a0 a1 a2 : Word} (hg : Bystander i g) (h : sendAStepB i a0 a1 a2 s = .next t) :
    sendAStepB i a0 a1 a2 (g s) = .next (g t) := by
  obtain ⟨u, hu, hz, ha, hf, rfl⟩ := sendAStepB_next.1 h
  exact sendAStepB_next.2 ⟨u, (hg.usart s).trans hu, hz, (hg.admits s a0).trans ha, hf, by
    rw [hg.ret, hg.emit, hg.modUs, hg.buf]⟩

theorem Bystander.recvBStepB {a0 : Word} (hg : Bystander i g) (h : recvBStepB i a0 s = .next t) :
    recvBStepB i a0 (g s) = .next (g t) := by
  obtain ⟨u, hu, rfl⟩ := recvBStepB_next.1 h
  exact recvBStepB_next.2 ⟨u, (hg.usart s).trans hu, hg.modUs _ s⟩

theorem Bystander.recvAStepB {a0 a1 a2 : Word} (hg : Bystander i g) (h : recvAStepB i a0 a1 a2 s = .next t) :
    recvAStepB i a0 a1 a2 (g s) = .next (g t) := by
  obtain ⟨u, hu, rfl⟩ := recvAStepB_next.1 h
  exact recvAStepB_next.2 ⟨u, (hg.usart s).trans hu, by rw [hg.ret, hg.modUs]⟩

theorem Bystander.writeDR {b : Byte} (hg : Bystander i g) (h : writeDR i b s = .next t) :
    writeDR i b (g s) = .next (g t) := by
  obtain ⟨u, hu, hen, hf, rfl⟩ := writeDR_next.1 h
  exact writeDR_next.2 ⟨u, (hg.usart s).trans hu, hen, hf, by rw [hg.emit, hg.modUs]⟩

end

/-! ## Step B, whatever the way accepts are taken -/

theorem acceptStepB_withAtomic {a : Accept} {s t : State} (b : Bool) (h : acceptStepB a s = .next t) :
    acceptStepB a (withAtomic b s) = .next (withAtomic b t) := by
  cases a with
  | sendB i a0 => exact (bystander_withAtomic i b).sendBStepB h
  | recvB i a0 => exact (bystander_withAtomic i b).recvBStepB h
  | sendA i a0 a1 a2 => exact (bystander_withAtomic i b).sendAStepB h
  | recvA i a0 a1 a2 => exact (bystander_withAtomic i b).recvAStepB h
  | lcdWrite row col a0 a1 =>
    cases h
    rfl
  | lcdClear =>
    cases h
    rfl

theorem withAtomic_false {s : State} (hat : s.cfg.acceptAtomic = false) (b : Bool) :
    withAtomic false (withAtomic b s) = s := by
  obtain ⟨cfg, port, sch, st, us, lcd, buf, trace, accepts, env, draws⟩ := s
  cases cfg
  cases hat
  rfl

/-- The last accept operation held takes its step B, and no other is taken (log 9). -/
theorem continueAccept_last (a : Accept) (s : State) :
    continueAccept s.accepts.length { s with accepts := s.accepts ++ [a] } = acceptStepB a s := by
  simp [continueAccept, List.eraseIdx_append_of_length_le]

/-- An operation that is accepted under either way: held, its step B then gives what the atomic operation gives. -/
theorem accept_joins {c : Instr} {a : Accept} {s t : State} (hat : s.cfg.acceptAtomic = false)
    (hc : ∀ b, exec c (withAtomic b s) = acceptOrHold a (acceptStepB a) (withAtomic b s)) :
    exec c s = .next { s with accepts := s.accepts ++ [a] } ∧
      (exec c (withAtomic true s) = .next t →
        applyInput (.accept s.accepts.length) { s with accepts := s.accepts ++ [a] } = .next (withAtomic false t)) := by
  have hself : withAtomic false s = s := withAtomic_false hat false
  refine ⟨?_, fun h => ?_⟩
  · have hheld := hc false
    rw [hself] at hheld
    exact hheld.trans (if_neg (ne_true_of_eq_false hat))
  · rw [hc true, acceptOrHold_of_atomic rfl] at h
    have hB := acceptStepB_withAtomic false h
    rw [withAtomic_false hat] at hB
    exact (continueAccept_last a s).trans hB

theorem transferCommand_joins {bad : Bool} {i : Byte} {slot : Usart → Slot} {a : Accept} {c : Instr} {s t : State}
    {u : Usart} (hat : s.cfg.acceptAtomic = false) (hbad : bad = false) (hu : usart? s i = some u)
    (hidle : (slot u).state = .idle)
    (hc : ∀ b, exec c (withAtomic b s) = transferCommand bad i slot a (withAtomic b s)) :
    exec c s = .next { s with accepts := s.accepts ++ [a] } ∧
      (exec c (withAtomic true s) = .next t →
        applyInput (.accept s.accepts.length) { s with accepts := s.accepts ++ [a] } = .next (withAtomic false t)) :=
  accept_joins hat fun b =>
    (hc b).trans (transferCommand_of_passed (transferCheck_none.2 ⟨hbad, u, hu, hidle⟩))

theorem execLcdWrite_of_accepted {row col : Byte} {s : State} (h0 : s.port.a0 ≠ 0) (hr : row.toNat < s.cfg.lcdRows)
    (hc : col.toNat < s.cfg.lcdCols) (hf : lcdFree s = true) :
    execLcdWrite row col s =
      acceptOrHold (.lcdWrite row col s.port.a0 s.port.a1) (lcdWriteB row col s.port.a0 s.port.a1) s := by
  rw [execLcdWrite, if_neg h0, if_neg (by omega), if_pos hf]

theorem execLcdClear_of_accepted {s : State} (hf : lcdFree s = true) :
    execLcdClear s = acceptOrHold .lcdClear lcdClearB s :=
  if_pos hf

/-- Settles O32: each of the six operations is accepted under either way. -/
theorem splitAcceptJoinsToTheAtomicOne : Obligations.SplitAcceptJoinsToTheAtomicOne := by
  intro s t hat
  refine ⟨fun i u hu h0 => ⟨fun hidle => ?_, fun hidle => ?_, fun hidle h2 => ?_, fun hidle h2 => ?_⟩,
    fun hreq htop => ⟨fun row col h0 hr hc => ?_, ?_⟩⟩
  · exact transferCommand_joins hat (nullBlocking_false h0) hu hidle fun b => execUsSendB_eq i (withAtomic b s)
  · exact transferCommand_joins hat (nullBlocking_false h0) hu hidle fun b => execUsRecvB_eq i (withAtomic b s)
  · exact transferCommand_joins hat (nullAsync_false h0 h2) hu hidle fun b => execUsSendA_eq i (withAtomic b s)
  · exact transferCommand_joins hat (nullAsync_false h0 h2) hu hidle fun b => execUsRecvA_eq i (withAtomic b s)
  · exact accept_joins hat fun b =>
      execLcdWrite_of_accepted (s := withAtomic b s) h0 hr hc (lcdFree_iff.2 ⟨hreq, htop⟩)
  · exact accept_joins hat fun b => execLcdClear_of_accepted (s := withAtomic b s) (lcdFree_iff.2 ⟨hreq, htop⟩)

/-! ## The LCD's step and the callbacks read no USART -/

section
variable (j : Byte) (g : Usart → Usart)

theorem sendThen_modUs (v : Byte) (rs : Bool) (f : Lcd → Lcd) (s : State) :
    sendThen v rs f (modUs j g s) = modUs j g (sendThen v rs f s) := by
  simp only [sendThen, modUs_lcd, modUs_cfg]
  split
  · rfl
  · rw [apply_ite (modUs j g)]
    rfl

theorem initStep_modUs (s : State) : initStep (modUs j g s) = modUs j g (initStep s) := by
  simp only [initStep, modUs_lcd, modUs_cfg]
  split
  case h_1 => rfl
  case h_6 => rfl
  all_goals exact sendThen_modUs j g _ _ _ s

theorem clearStep_modUs (s : State) : clearStep (modUs j g s) = modUs j g (clearStep s) := by
  simp only [clearStep, modUs_lcd, modUs_cfg]
  split
  · rfl
  · exact sendThen_modUs j g _ _ _ s
  · rfl

variable {s t : State}

theorem characterStep_modUs (h : characterStep s = .next t) :
    characterStep (modUs j g s) = .next (modUs j g t) := by
  unfold characterStep at h ⊢
  rw [modUs_lcd]
  split_ifs at h ⊢
  · obtain ⟨c, hc, h⟩ := andThen_eq_next.1 h
    cases h
    refine andThen_eq_next.2 ⟨c, hc, ?_⟩
    rw [sendThen_modUs]
  · cases h
    rfl

theorem writeStep_modUs (h : writeStep s = .next t) : writeStep (modUs j g s) = .next (modUs j g t) := by
  unfold writeStep at h ⊢
  rw [modUs_lcd]
  split at h
  · cases h
    rfl
  · unfold setPositionStep at h ⊢
    rw [modUs_lcd, modUs_cfg]
    split at h
    · cases h
      rw [sendThen_modUs]
    · cases h
  · exact characterStep_modUs j g h
  · cases h
    rfl

theorem lcdRun_modUs (h : lcdRun s = .next t) : lcdRun (modUs j g s) = .next (modUs j g t) := by
  unfold lcdRun at h ⊢
  rw [modUs_lcd]
  split at h
  · cases h
    rw [initStep_modUs]
  · unfold requestStep at h ⊢
    rw [modUs_lcd]
    split at h
    · exact writeStep_modUs j g h
    · cases h
      rw [clearStep_modUs]
    · cases h
      rfl
    · cases h
      rfl
  · cases h
    rfl

theorem invoke_modUs {cb : Word} (h : invoke cb s = .next t) : invoke cb (modUs j g s) = .next (modUs j g t) := by
  unfold invoke at h ⊢
  rw [modUs_cfg]
  split_ifs at h ⊢
  · cases h
    rfl
  · cases h
    rfl
  · exact lcdRun_modUs j g h
  · cases h
    rfl

theorem completionCallback_modUs {ev : Event} {cb : Word} (h : completionCallback ev cb s = .next t) :
    completionCallback ev cb (modUs j g s) = .next (modUs j g t) := by
  unfold completionCallback at h ⊢
  split_ifs at h ⊢
  · cases h
    rfl
  · exact invoke_modUs j g h

end

/-! ## An operation on one USART beside a change of another -/

section
variable {i j : Byte} {s t : State} (hji : j ≠ i) (g : Usart → Usart)
include hji

theorem transferCommand_modUs {bad : Bool} {slot : Usart → Slot} {a : Accept}
    (hB : ∀ s t, acceptStepB a s = .next t → acceptStepB a (modUs j g s) = .next (modUs j g t))
    (h : transferCommand bad i slot a s = .next t) :
    transferCommand bad i slot a (modUs j g s) = .next (modUs j g t) := by
  have hcheck : transferCheck bad i slot (modUs j g s) = transferCheck bad i slot s := by
    rw [transferCheck, usart?_modUs_other g s hji.symm]
    rfl
  cases hc : transferCheck bad i slot s with
  | some c =>
    rw [transferCommand_of_ended hc] at h
    cases h
    exact transferCommand_of_ended (hcheck.trans hc)
  | none =>
    rw [transferCommand_of_passed hc] at h
    rw [transferCommand_of_passed (hcheck.trans hc)]
    obtain ⟨hat, h⟩ | ⟨hat, rfl⟩ := acceptOrHold_next h
    · exact (acceptOrHold_of_atomic (s := modUs j g s) hat a _).trans (hB s t h)
    · exact if_neg (ne_true_of_eq_false hat)

theorem txBranch_modUs (h : txBranch i s = .next t) : txBranch i (modUs j g s) = .next (modUs j g t) := by
  have hg : Bystander i (modUs j g) := bystander_modUs hji g
  obtain ⟨u, hu, h⟩ := withUs_eq_next.1 h
  rw [txBranch, withUs_some ((hg.usart s).trans hu)]
  split_ifs at h ⊢
  · obtain ⟨b, hb, h⟩ := andThen_eq_next.1 h
    obtain ⟨m, hm, h⟩ := andThen_eq_next.1 h
    cases h
    exact andThen_eq_next.2 ⟨b, hb, andThen_eq_next.2 ⟨_, hg.writeDR hm, by rw [hg.modUs]⟩⟩
  · rw [← hg.modUs]
    exact completionCallback_modUs j g h

theorem completeRx_modUs {cb : Word} (h : completeRx i cb s = .next t) :
    completeRx i cb (modUs j g s) = .next (modUs j g t) := by
  rw [completeRx, ← modUs_comm hji]
  exact completionCallback_modUs j g h

theorem rxBranch_modUs (h : rxBranch i s = .next t) : rxBranch i (modUs j g s) = .next (modUs j g t) := by
  obtain ⟨u, hu, hcases⟩ := rxBranch_next h
  have hu' : usart? (modUs j g s) i = some u := (usart?_modUs_other g s hji.symm).trans hu
  have hstored : rxByteStored i u (modUs j g s) = modUs j g (rxByteStored i u s) := by
    rw [rxByteStored, ← modUs_comm hji]
    rfl
  obtain ⟨hlt, ha, hlast, rfl⟩ | ⟨hlt, ha, hlast, h⟩ | ⟨hge, h⟩ := hcases
  · rw [rxBranch_of_store hu' hlt ha, hstored]
    exact if_neg hlast
  · rw [rxBranch_of_store hu' hlt ha, hstored]
    exact (if_pos hlast).trans (completeRx_modUs hji g h)
  · rw [rxBranch_of_complete hu' hge]
    exact completeRx_modUs hji g h

theorem execEvIrq_modUs (h : execEvIrq i s = .next t) : execEvIrq i (modUs j g s) = .next (modUs j g t) := by
  have hus (m : State) : usart? (modUs j g m) i = usart? m i := usart?_modUs_other g m hji.symm
  obtain ⟨hp, m, htx, hrx⟩ := execEvIrq_next.1 h
  have hp' : irqPending (modUs j g s) i = irqPending s i := by
    have hus' : (modUs j g s).us[i.toNat]? = s.us[i.toNat]? := hus s
    rw [irqPending, hus']
    rfl
  refine execEvIrq_next.2 ⟨hp'.trans hp, modUs j g m, ?_, ?_⟩
  · obtain ⟨u, hu, ⟨hg, h⟩ | ⟨hg, rfl⟩⟩ := irqTx_next htx
    · exact (irqTx_of_open ((hus s).trans hu) hg).trans (txBranch_modUs hji g h)
    · exact irqTx_of_closed ((hus m).trans hu) hg
  · obtain ⟨u, hu, ⟨hg, h⟩ | ⟨hg, rfl⟩⟩ := irqRx_next hrx
    · exact (irqRx_of_open ((hus m).trans hu) hg).trans (rxBranch_modUs hji g h)
    · exact irqRx_of_closed ((hus t).trans hu) hg

theorem finishRecvB_modUs {c : UsStatus} (h : finishRecvB i c s = .next t) :
    finishRecvB i c (modUs j g s) = .next (modUs j g t) := by
  obtain ⟨u, hu, ha, rfl⟩ := finishRecvB_next.1 h
  refine finishRecvB_next.2 ⟨u, (usart?_modUs_other g s hji.symm).trans hu, ha, ?_⟩
  rw [modUs_cfg, ← modUs_comm hji]
  rfl

theorem execEvPoll_modUs (h : execEvPoll i s = .next t) : execEvPoll i (modUs j g s) = .next (modUs j g t) := by
  obtain ⟨u, hu, hp, hcases⟩ := execEvPoll_next h
  have hu' : usart? (modUs j g s) i = some u := (usart?_modUs_other g s hji.symm).trans hu
  obtain ⟨hb, h⟩ | ⟨hb, hr, h⟩ | ⟨hb, hr, rfl⟩ := hcases
  · exact (execEvPoll_of_timeOut hu' hp hb).trans (finishRecvB_modUs hji g h)
  · exact (execEvPoll_of_received hu' hp hb hr).trans (finishRecvB_modUs hji g h)
  · rw [execEvPoll_of_waiting hu' hp hb hr, modUs_comm hji]

theorem execEvTxDone_modUs (h : execEvTxDone i s = .next t) :
    execEvTxDone i (modUs j g s) = .next (modUs j g t) := by
  obtain ⟨u, hu, hf, rfl⟩ := execEvTxDone_next.1 h
  exact execEvTxDone_next.2 ⟨u, (usart?_modUs_other g s hji.symm).trans hu, hf, modUs_comm hji _ g s⟩

theorem execEvRxByte_modUs {d : Byte} (h : execEvRxByte i d s = .next t) :
    execEvRxByte i d (modUs j g s) = .next (modUs j g t) := by
  obtain ⟨u, hu, hcases⟩ := execEvRxByte_next h
  have hu' : usart? (modUs j g s) i = some u := (usart?_modUs_other g s hji.symm).trans hu
  obtain ⟨he, rfl⟩ | ⟨he, hr, rfl⟩ | ⟨he, hr, rfl⟩ := hcases
  · exact execEvRxByte_of_disabled hu' he
  · rw [execEvRxByte_of_read hu' he hr, modUs_comm hji]
  · rw [execEvRxByte_of_unread hu' he hr, ← modUs_comm hji]
    rfl

/-- Every operation about USART `i`, beside any change of the record of `j`. -/
theorem exec_modUs {c : Instr} (hc : usartOf c = some i) (h : exec c s = .next t) :
    exec c (modUs j g s) = .next (modUs j g t) := by
  have hg : Bystander i (modUs j g) := bystander_modUs hji g
  cases c with
  | usSendB k =>
    cases hc
    exact transferCommand_modUs hji g (a := .sendB i s.port.a0) (fun _ _ h => hg.sendBStepB h) h
  | usRecvB k =>
    cases hc
    exact transferCommand_modUs hji g (a := .recvB i s.port.a0) (fun _ _ h => hg.recvBStepB h) h
  | usSendA k =>
    cases hc
    exact transferCommand_modUs hji g (a := .sendA i s.port.a0 s.port.a1 s.port.a2) (fun _ _ h => hg.sendAStepB h) h
  | usRecvA k =>
    cases hc
    exact transferCommand_modUs hji g (a := .recvA i s.port.a0 s.port.a1 s.port.a2) (fun _ _ h => hg.recvAStepB h) h
  | evTxDone k =>
    cases hc
    exact execEvTxDone_modUs hji g h
  | evRxByte k d =>
    cases hc
    exact execEvRxByte_modUs hji g h
  | evIrq k =>
    cases hc
    exact execEvIrq_modUs hji g h
  | evPoll k =>
    cases hc
    exact execEvPoll_modUs hji g h
  | _ => cases hc

end

/-- Settles O44: putting a record at another index is a change of it. -/
theorem usartsDoNotInterfere : Obligations.UsartsDoNotInterfere := by
  intro c i j s t v hc hji h
  have hput (m : State) : { m with us := m.us.set j.toNat v } = modUs j (fun _ => v) m := by
    rw [List.set_eq_modify]
    rfl
  rw [hput s, hput t]
  exact exec_modUs hji (fun _ => v) hc h

end Sys2Proof.Machine
end

section
/-! SUPPORT. A whole asynchronous transfer: an accepted request, and the rounds of line event and handler run that
follow it (41_usart.md R199). -/

namespace Sys2Proof.Machine

/-! ## Sequences of operations -/

theorem execAll_append (l m : List Instr) (s : State) : execAll (l ++ m) s = andThen (execAll l s) (execAll m) := by
  induction l generalizing s with
  | nil => rfl
  | cons c l ih =>
    simp only [List.cons_append, execAll]
    cases exec c s with
    | next t => exact ih t
    | fault r => rfl
    | refused r => rfl

/-- One round more, after a list of operations that answers. -/
theorem execAll_append_of_next {l m : List Instr} {s t : State} (h : execAll l s = .next t) :
    execAll (l ++ m) s = execAll m t := by
  rw [execAll_append, h, andThen_next]

theorem txRounds_succ (i : Byte) (n : Nat) : txRounds i (n + 1) = txRounds i n ++ scriptTxByte i := by
  simp [txRounds, List.replicate_succ']

theorem rxRounds_succ (i : Byte) (d : Nat → Byte) (n : Nat) :
    rxRounds i d (n + 1) = rxRounds i d n ++ scriptRxByte i (d n) := by
  simp [rxRounds, List.range_succ]

/-! ## Rounds -/

theorem gated_of_no_flag (g : IrqGate) (enable : Bool) : gated g false enable = false := by
  cases g <;> rfl

/-- The end of a frame raises TC, and the handler then runs its Tx branch (R191, R195). -/
theorem execAll_scriptTxByte {i : Byte} {s t : State} {u : Usart} (hu : usart? s i = some u)
    (hn : nvicEn s.cfg i = true) (hf : u.txInflight ≠ none) (hr : u.rxne = false) (he : crBit u.cr bitTcie = true)
    (ht : txBranch i (modUs i Usart.endFrame s) = .next t) : execAll (scriptTxByte i) s = .next t := by
  have hu' : usart? (modUs i Usart.endFrame s) i = some u.endFrame := usart?_modUs_some _ hu
  have hclosed : gated s.cfg.irqGate u.rxne (crBit u.cr bitRxneie) = false := by
    rw [hr]
    exact gated_of_no_flag _ _
  have hdone : exec (.evTxDone i) s = .next _ := execEvTxDone_next.2 ⟨u, hu, hf, rfl⟩
  have hirq : exec (.evIrq i) (modUs i Usart.endFrame s) = .next t :=
    execEvIrq_of_tx_only hu' hn rfl he hclosed ht
  simp only [scriptTxByte, execAll, hdone, hirq, andThen_next]

/-- A byte received raises RXNE, and the handler then runs its Rx branch (R192, R196). -/
theorem execAll_scriptRxByte {i b : Byte} {s : State} {u : Usart} (hu : usart? s i = some u)
    (hn : nvicEn s.cfg i = true) (hen : crBit u.cr bitRxen = true) (hr : u.rxne = false)
    (he : crBit u.cr bitRxneie = true) (htx : gated s.cfg.irqGate u.tc (crBit u.cr bitTcie) = false) :
    execAll (scriptRxByte i b) s = rxBranch i (modUs i (Usart.takeByte b) s) := by
  have hu' : usart? (modUs i (Usart.takeByte b) s) i = some (u.takeByte b) := usart?_modUs_some _ hu
  have hbyte : exec (.evRxByte i b) s = .next _ := execEvRxByte_of_read hu hen hr
  have hirq : exec (.evIrq i) (modUs i (Usart.takeByte b) s) = rxBranch i (modUs i (Usart.takeByte b) s) :=
    execEvIrq_of_rx_only hu' hn htx rfl he
  simp only [scriptRxByte, execAll, hbyte, hirq, andThen_next]
  cases rxBranch i (modUs i (Usart.takeByte b) s) <;> rfl

/-- A callback that is opaque leaves its event alone (R286, log 19). -/
theorem completionCallback_of_opaque {cb : Word} {s : State} (h0 : cb ≠ 0) (h1 : cb ≠ s.cfg.schTick)
    (h2 : cb ≠ s.cfg.cbLcd) (ev : Event) : completionCallback ev cb s = .next (emit ev s) :=
  (if_neg h0).trans (invoke_of_opaque h1 h2)

/-! ## Positions -/

/-- The slot of the request the port describes, at position `k` (R182, R186). -/
def requestSlot (s : State) (k : Nat) (st : SlotState) : Slot :=
  { buf := s.port.a0, pos := BitVec.ofNat 32 k, size := s.port.a1, cb := s.port.a2, state := st }

theorem ofNat_lt_of_lt_toNat {k : Nat} {a : Word} (h : k < a.toNat) : BitVec.ofNat 32 k < a := by
  have ha := a.isLt
  bv_omega

theorem ofNat_succ (k : Nat) : BitVec.ofNat 32 k + 1 = BitVec.ofNat 32 (k + 1) := by
  bv_omega

theorem requestSlot_succ (s : State) (k : Nat) (st : SlotState) :
    { requestSlot s k st with pos := (requestSlot s k st).pos + 1 } = requestSlot s (k + 1) st := by
  simp only [requestSlot, ofNat_succ]

/-- Positions below a size address distinct bytes. -/
theorem toNat_add_ofNat_ne {a b : Word} {j k : Nat} (hj : j < b.toNat) (hk : k < b.toNat) (hne : j ≠ k) :
    (a + BitVec.ofNat 32 j).toNat ≠ (a + BitVec.ofNat 32 k).toNat := by
  have hb := b.isLt
  bv_omega

/-! ## Sending -/

/-- The byte at position `k` of the request's buffer. -/
def requestByte (s : State) (k : Nat) : Byte := bufByte s.buf (s.port.a0 + BitVec.ofNat 32 k).toNat

/-- What the first `n` handler runs emit (R199). -/
def laterFrames (s : State) (i : Byte) (n : Nat) : List Event :=
  (List.range n).map fun k => .txFrame i (requestByte s (k + 1))

theorem laterFrames_succ (s : State) (i : Byte) (n : Nat) :
    laterFrames s i (n + 1) = laterFrames s i n ++ [.txFrame i (requestByte s (n + 1))] := by
  simp [laterFrames, List.range_succ]

/-- The state `t` and the record `v` in it after `k` handler runs of a send requested at `s`. -/
structure Sending (s : State) (i : Byte) (k : Nat) (t : State) (v : Usart) : Prop where
  cfg : t.cfg = s.cfg
  buf : t.buf = s.buf
  trace : t.trace = s.trace ++ [.txFrame i (requestByte s 0), .ret 0] ++ laterFrames s i k
  usart : usart? t i = some v
  slot : v.tx = requestSlot s (k + 1) .busy
  inflight : v.txInflight ≠ none
  rxne : v.rxne = false
  txen : crBit v.cr bitTxen = true
  tcie : crBit v.cr bitTcie = true

/-- US.SENDA pushes byte 0 (R182). -/
theorem sending_zero {s : State} {i : Byte} {u : Usart} (hat : s.cfg.acceptAtomic = true) (hu : usart? s i = some u)
    (hidle : u.tx.state = .idle) (hfree : u.txInflight = none) (hr : u.rxne = false) (h0 : s.port.a0 ≠ 0)
    (h1 : s.port.a1 ≠ 0) (h2 : s.port.a2 ≠ 0) (ha : admits s.cfg s.port.a0 = true) :
    ∃ t v, exec (.usSendA i) s = .next t ∧ Sending s i 0 t v := by
  have hbyte : requestByte s 0 = bufByte s.buf s.port.a0.toNat := by simp [requestByte]
  refine ⟨_, _, (execUsSendA_of_checked hu hat h0 h2 hidle).trans (sendAStepB_next.2 ⟨u, hu, h1, ha, hfree, rfl⟩),
    rfl, rfl, ?_, usart?_modUs_some _ hu, rfl, by simp, hr, ?_, ?_⟩
  · simp [hbyte, laterFrames, usCode]
  · simp [crBit_crSet, bitTxen, bitTcie]
  · simp [crBit_crSet, bitTcie]

/-- Below the size a round pushes the next byte (R191). -/
theorem Sending.push {s t : State} {i : Byte} {k : Nat} {v : Usart} (h : Sending s i k t v)
    (hn : nvicEn s.cfg i = true) (hk : k + 1 < s.port.a1.toNat)
    (ha : admits s.cfg (s.port.a0 + BitVec.ofNat 32 (k + 1)) = true) :
    ∃ t' v', execAll (scriptTxByte i) t = .next t' ∧ Sending s i (k + 1) t' v' := by
  have hu : usart? (modUs i Usart.endFrame t) i = some v.endFrame := usart?_modUs_some _ h.usart
  have haddr : v.endFrame.tx.buf + v.endFrame.tx.pos = s.port.a0 + BitVec.ofNat 32 (k + 1) := by
    rw [Usart.endFrame_tx, h.slot]
    rfl
  have hlt : v.endFrame.tx.pos < v.endFrame.tx.size := by
    rw [Usart.endFrame_tx, h.slot]
    exact ofNat_lt_of_lt_toNat hk
  have hbranch := txBranch_of_push hu hlt h.txen rfl (by rw [haddr, modUs_cfg, h.cfg]; exact ha)
  rw [haddr, modUs_buf, h.buf] at hbranch
  refine ⟨_, _, execAll_scriptTxByte h.usart (h.cfg ▸ hn) h.inflight h.rxne h.tcie hbranch, h.cfg, h.buf, ?_,
    usart?_modUs_some _ hu, ?_, by simp, h.rxne, h.txen, h.tcie⟩
  · rw [laterFrames_succ, ← List.append_assoc, ← h.trace]
    rfl
  · show { v.tx with pos := v.tx.pos + 1 } = requestSlot s (k + 1 + 1) .busy
    rw [h.slot, requestSlot_succ]

/-- After `k` rounds with bytes left. -/
theorem exists_sending {s : State} {i : Byte} (hn : nvicEn s.cfg i = true)
    (ha : ∀ k, k < s.port.a1.toNat → admits s.cfg (s.port.a0 + BitVec.ofNat 32 k) = true)
    (hstart : ∃ t v, exec (.usSendA i) s = .next t ∧ Sending s i 0 t v) (k : Nat) (hk : k < s.port.a1.toNat) :
    ∃ t v, execAll (.usSendA i :: txRounds i k) s = .next t ∧ Sending s i k t v := by
  induction k with
  | zero =>
    obtain ⟨t, v, ht, hv⟩ := hstart
    exact ⟨t, v, by simp only [txRounds, List.replicate_zero, List.flatten_nil, execAll, ht, andThen_next], hv⟩
  | succ k ih =>
    obtain ⟨t, v, ht, hv⟩ := ih (by omega)
    obtain ⟨t', v', ht', hv'⟩ := hv.push hn hk (ha _ hk)
    refine ⟨t', v', ?_, hv'⟩
    rw [txRounds_succ, ← List.cons_append, execAll_append_of_next ht, ht']

/-- The round after the last byte completes (R191). -/
theorem Sending.complete {s t : State} {i : Byte} {k : Nat} {v : Usart} (h : Sending s i k t v)
    (hn : nvicEn s.cfg i = true) (hk : k + 1 = s.port.a1.toNat) (h2 : s.port.a2 ≠ 0)
    (hst : s.port.a2 ≠ s.cfg.schTick) (hlcd : s.port.a2 ≠ s.cfg.cbLcd) :
    execAll (scriptTxByte i) t =
      .next (emit (.txCb i s.port.a2) (modUs i (Usart.txComplete ∘ Usart.endFrame) t)) := by
  have hu : usart? (modUs i Usart.endFrame t) i = some v.endFrame := usart?_modUs_some _ h.usart
  have hcb : v.endFrame.tx.cb = s.port.a2 := by
    rw [Usart.endFrame_tx, h.slot]
    rfl
  have hge : ¬ v.endFrame.tx.pos < v.endFrame.tx.size := by
    rw [Usart.endFrame_tx, h.slot, hk]
    simp [requestSlot]
  refine execAll_scriptTxByte h.usart (h.cfg ▸ hn) h.inflight h.rxne h.tcie ?_
  rw [txBranch_of_complete hu hge, hcb, modUs_modUs]
  exact completionCallback_of_opaque h2 (h.cfg ▸ hst) (h.cfg ▸ hlcd) _

/-- Settles O43: the rounds one after another, each with its byte, and the last with the completion. -/
theorem asyncSendTraversesTheBufferOnce : Obligations.AsyncSendTraversesTheBufferOnce := by
  intro s i u hat hu hn hidle hfree hr h0 h1 h2 hst hlcd ha
  have hpos : 0 < s.port.a1.toNat := by bv_omega
  have hstart := sending_zero hat hu hidle hfree hr h0 h1 h2 (by simpa using ha 0 hpos)
  refine ⟨fun k hk => ?_, ?_⟩
  · obtain ⟨t, v, ht, hv⟩ := exists_sending hn ha hstart k hk
    exact ⟨t, v, ht, hv.usart, hv.trace, hv.slot⟩
  · obtain ⟨n, hsize⟩ : ∃ n, s.port.a1.toNat = n + 1 := ⟨s.port.a1.toNat - 1, by omega⟩
    obtain ⟨t, v, ht, hv⟩ := exists_sending hn ha hstart n (by omega)
    have hrun := hv.complete hn hsize.symm h2 hst hlcd
    rw [← execAll_append_of_next ht, List.cons_append, ← txRounds_succ, ← hsize] at hrun
    refine ⟨_, (Usart.txComplete ∘ Usart.endFrame) v, hrun, usart?_modUs_some _ hv.usart, ?_, ?_, ?_, ?_, rfl⟩
    · rw [hsize, Nat.add_sub_cancel]
      exact congrArg (· ++ [Event.txCb i s.port.a2]) hv.trace
    · simp [hv.slot, requestSlot, ← hsize]
    · simp [crBit_crSet, bitTxen, bitTcie]
    · simp [crBit_crSet, bitTcie]

/-! ## Receiving -/

/-- The first `k` bytes received stand in the request's buffer. -/
def Stored (s : State) (d : Nat → Byte) (k : Nat) (t : State) : Prop :=
  ∀ j : Nat, j < k → bufByte t.buf (s.port.a0 + BitVec.ofNat 32 j).toNat = d j

/-- The state `t` and the record `v` in it after `k` handler runs of a receive requested at `s`. -/
structure Receiving (s : State) (i : Byte) (d : Nat → Byte) (k : Nat) (t : State) (v : Usart) : Prop where
  cfg : t.cfg = s.cfg
  trace : t.trace = s.trace ++ [.ret 0]
  stored : Stored s d k t
  usart : usart? t i = some v
  slot : v.rx = requestSlot s k .busy
  rxne : v.rxne = false
  drRx : ∀ n, k = n + 1 → v.drRx = d n
  rxen : crBit v.cr bitRxen = true
  rxneie : crBit v.cr bitRxneie = true
  txClosed : gated s.cfg.irqGate v.tc (crBit v.cr bitTcie) = false

/-- US.RECVA arms the receiver (R186). -/
theorem receiving_zero {s : State} {i : Byte} {u : Usart} (d : Nat → Byte) (hat : s.cfg.acceptAtomic = true)
    (hu : usart? s i = some u) (hidle : u.rx.state = .idle) (hr : u.rxne = false)
    (htx : gated s.cfg.irqGate u.tc (crBit u.cr bitTcie) = false) (h0 : s.port.a0 ≠ 0) (h2 : s.port.a2 ≠ 0) :
    ∃ t v, exec (.usRecvA i) s = .next t ∧ Receiving s i d 0 t v := by
  refine ⟨_, _, (execUsRecvA_of_checked hu hat h0 h2 hidle).trans (recvAStepB_next.2 ⟨u, hu, rfl⟩), rfl, rfl,
    fun j hj => absurd hj (Nat.not_lt_zero j), usart?_modUs_some _ hu, rfl, hr, fun n hn => by omega, ?_, ?_, ?_⟩
  · simp [crBit_crSet, bitRxen, bitRxneie]
  · simp [crBit_crSet, bitRxneie]
  · simpa [crBit_crSet, bitRxen, bitRxneie, bitTcie] using htx

/-- Below the size a round stores its byte, and may complete with it (R192). -/
theorem Receiving.store {s t : State} {i : Byte} {d : Nat → Byte} {k : Nat} {v : Usart} (h : Receiving s i d k t v)
    (hn : nvicEn s.cfg i = true) (hk : k < s.port.a1.toNat)
    (ha : admits s.cfg (s.port.a0 + BitVec.ofNat 32 k) = true) :
    ∃ r w, Receiving s i d (k + 1) r w ∧ execAll (scriptRxByte i (d k)) t =
      if s.cfg.rxCompleteEager = true ∧ BitVec.ofNat 32 (k + 1) = s.port.a1 then completeRx i s.port.a2 r
      else .next r := by
  have hu : usart? (modUs i (Usart.takeByte (d k)) t) i = some (v.takeByte (d k)) := usart?_modUs_some _ h.usart
  have hrx : (v.takeByte (d k)).rx = requestSlot s k .busy := h.slot
  have hround := execAll_scriptRxByte (b := d k) h.usart (h.cfg ▸ hn) h.rxen h.rxne h.rxneie (h.cfg ▸ h.txClosed)
  rw [rxBranch_of_store hu (by rw [hrx]; exact ofNat_lt_of_lt_toNat hk) (by rw [hrx, modUs_cfg, h.cfg]; exact ha),
    modUs_cfg, h.cfg, hrx] at hround
  refine ⟨rxByteStored i (v.takeByte (d k)) (modUs i (Usart.takeByte (d k)) t), rxStored (v.takeByte (d k)),
    ⟨h.cfg, h.trace, fun j hj => ?_, usart?_modUs_some _ hu, ?_, rfl, ?_, h.rxen, h.rxneie, h.txClosed⟩, ?_⟩
  · show bufByte (Memory.write t.buf _ _) _ = d j
    rw [hrx]
    by_cases hjk : j = k
    · subst hjk
      exact bufByte_write_same _ _ _
    · exact (bufByte_write_other _ _ (toNat_add_ofNat_ne (by omega) hk hjk)).trans (h.stored j (by omega))
  · show { v.rx with pos := v.rx.pos + 1 } = requestSlot s (k + 1) .busy
    rw [h.slot, requestSlot_succ]
  · rintro n hn
    obtain rfl : k = n := by omega
    rfl
  · simpa only [requestSlot, ofNat_succ] using hround

/-- After `k` rounds, none of which stores the last byte under RX_COMPLETE_EAGER. -/
theorem exists_receiving {s : State} {i : Byte} {d : Nat → Byte} (hn : nvicEn s.cfg i = true)
    (ha : ∀ k, k < s.port.a1.toNat → admits s.cfg (s.port.a0 + BitVec.ofNat 32 k) = true)
    (hstart : ∃ t v, exec (.usRecvA i) s = .next t ∧ Receiving s i d 0 t v) (k : Nat) (hk : k ≤ s.port.a1.toNat)
    (hlast : s.cfg.rxCompleteEager = true → k < s.port.a1.toNat) :
    ∃ t v, execAll (.usRecvA i :: rxRounds i d k) s = .next t ∧ Receiving s i d k t v := by
  induction k with
  | zero =>
    obtain ⟨t, v, ht, hv⟩ := hstart
    exact ⟨t, v, by simp only [rxRounds, List.range_zero, List.flatMap_nil, execAll, ht, andThen_next], hv⟩
  | succ k ih =>
    obtain ⟨t, v, ht, hv⟩ := ih (by omega) (fun _ => by omega)
    obtain ⟨r, w, hw, hround⟩ := hv.store hn hk (ha k hk)
    refine ⟨r, w, ?_, hw⟩
    rw [rxRounds_succ, ← List.cons_append, execAll_append_of_next ht, hround]
    refine if_neg fun ⟨he, hsize⟩ => ?_
    have hlt := ofNat_lt_of_lt_toNat (hlast he)
    bv_omega

/-- The state `t` and the record `v` in it after the run that completes a receive requested at `s`. -/
structure Received (s : State) (i : Byte) (d : Nat → Byte) (last : Byte) (unread : Bool) (t : State) (v : Usart) :
    Prop where
  usart : usart? t i = some v
  trace : t.trace = s.trace ++ [.ret 0, .rxCb i s.port.a2]
  slot : v.rx = requestSlot s s.port.a1.toNat .idle
  rxen : crBit v.cr 2 = false
  rxneie : crBit v.cr 5 = false
  rxne : v.rxne = unread
  drRx : v.drRx = last
  stored : Stored s d s.port.a1.toNat t

/-- A completion at the end of the buffer (R192). -/
theorem received_of_complete {s r : State} {i : Byte} {d : Nat → Byte} {w : Usart} (hcfg : r.cfg = s.cfg)
    (htrace : r.trace = s.trace ++ [.ret 0]) (hst : Stored s d s.port.a1.toNat r) (hw : usart? r i = some w)
    (hslot : w.rx = requestSlot s s.port.a1.toNat .busy) (h2 : s.port.a2 ≠ 0) (htick : s.port.a2 ≠ s.cfg.schTick)
    (hlcd : s.port.a2 ≠ s.cfg.cbLcd) :
    ∃ t v, completeRx i s.port.a2 r = .next t ∧ Received s i d w.drRx w.rxne t v := by
  refine ⟨_, _, completionCallback_of_opaque h2 (hcfg ▸ htick) (hcfg ▸ hlcd) _, usart?_modUs_some _ hw, ?_, ?_, ?_, ?_,
    rfl, rfl, hst⟩
  · simp [htrace]
  · simp [hslot, requestSlot]
  · simp [crBit_crSet, bitRxen, bitRxneie]
  · simp [crBit_crSet, bitRxneie]

/-- The round after the last byte completes, and reads nothing (R192, D22). -/
theorem Receiving.complete {s t : State} {i : Byte} {d : Nat → Byte} {v : Usart}
    (h : Receiving s i d s.port.a1.toNat t v) (hn : nvicEn s.cfg i = true) (h2 : s.port.a2 ≠ 0)
    (htick : s.port.a2 ≠ s.cfg.schTick) (hlcd : s.port.a2 ≠ s.cfg.cbLcd) (b : Byte) :
    ∃ t' v', execAll (scriptRxByte i b) t = .next t' ∧ Received s i d b true t' v' := by
  have hu : usart? (modUs i (Usart.takeByte b) t) i = some (v.takeByte b) := usart?_modUs_some _ h.usart
  have hrx : (v.takeByte b).rx = requestSlot s s.port.a1.toNat .busy := h.slot
  have hge : ¬ (v.takeByte b).rx.pos < (v.takeByte b).rx.size := by simp [h.slot, requestSlot]
  rw [execAll_scriptRxByte h.usart (h.cfg ▸ hn) h.rxen h.rxne h.rxneie (h.cfg ▸ h.txClosed),
    rxBranch_of_complete hu hge, hrx]
  exact received_of_complete (r := modUs i (Usart.takeByte b) t) h.cfg h.trace h.stored hu hrx h2 htick hlcd

/-- With RX_COMPLETE_EAGER the round of the last byte completes (R192, D22). -/
theorem Receiving.store_complete {s t : State} {i : Byte} {d : Nat → Byte} {n : Nat} {v : Usart}
    (h : Receiving s i d n t v) (hn : nvicEn s.cfg i = true) (heager : s.cfg.rxCompleteEager = true)
    (hsize : s.port.a1.toNat = n + 1) (ha : admits s.cfg (s.port.a0 + BitVec.ofNat 32 n) = true)
    (h2 : s.port.a2 ≠ 0) (htick : s.port.a2 ≠ s.cfg.schTick) (hlcd : s.port.a2 ≠ s.cfg.cbLcd) :
    ∃ t' v', execAll (scriptRxByte i (d n)) t = .next t' ∧ Received s i d (d n) false t' v' := by
  obtain ⟨r, w, hw, hround⟩ := h.store hn (by omega) ha
  have hlast : BitVec.ofNat 32 (n + 1) = s.port.a1 := by rw [← hsize, BitVec.ofNat_toNat, BitVec.setWidth_eq]
  rw [hround, if_pos ⟨heager, hlast⟩, ← hw.drRx n rfl, ← hw.rxne]
  exact received_of_complete hw.cfg hw.trace (hsize ▸ hw.stored) hw.usart (hsize ▸ hw.slot) h2 htick hlcd

/-- Settles O60: the rounds one after another, each with its byte, and the completion in a round of its own, or with
RX_COMPLETE_EAGER in the round of the last byte. -/
theorem asyncReceiveStoresTheBufferThenCompletes : Obligations.AsyncReceiveStoresTheBufferThenCompletes := by
  intro s i u d hat hu hn hidle hr htx h0 h2 htick hlcd ha
  have hstart := receiving_zero d hat hu hidle hr htx h0 h2
  refine ⟨fun hlazy => ⟨fun k hk => ?_, ?_⟩, fun heager hpos => ⟨fun k hk => ?_, ?_⟩⟩
  · obtain ⟨t, v, ht, hv⟩ := exists_receiving hn ha hstart k hk (by simp [hlazy])
    exact ⟨t, v, ht, hv.usart, hv.trace, hv.slot, hv.rxne, hv.stored⟩
  · obtain ⟨t, v, ht, hv⟩ := exists_receiving hn ha hstart _ le_rfl (by simp [hlazy])
    obtain ⟨t', v', hround, hv'⟩ := hv.complete hn h2 htick hlcd (d s.port.a1.toNat)
    refine ⟨t', v', ?_, hv'.usart, hv'.trace, hv'.slot, hv'.rxen, hv'.rxneie, hv'.rxne, hv'.drRx, hv'.stored⟩
    rw [rxRounds_succ, ← List.cons_append, execAll_append_of_next ht, hround]
  · obtain ⟨t, v, ht, hv⟩ := exists_receiving hn ha hstart k hk.le fun _ => hk
    exact ⟨t, v, ht, hv.usart, hv.trace, hv.slot, hv.rxne, hv.stored⟩
  · obtain ⟨n, hsize⟩ : ∃ n, s.port.a1.toNat = n + 1 := ⟨s.port.a1.toNat - 1, by omega⟩
    obtain ⟨t, v, ht, hv⟩ := exists_receiving hn ha hstart n (by omega) (fun _ => by omega)
    obtain ⟨t', v', hround, hv'⟩ := hv.store_complete hn heager hsize (ha n (by omega)) h2 htick hlcd
    refine ⟨t', v', ?_, hv'.usart, hv'.trace, hv'.slot, hv'.rxen, hv'.rxneie, hv'.rxne, ?_, hv'.stored⟩
    · rw [hsize, rxRounds_succ, ← List.cons_append, execAll_append_of_next ht, hround]
    · rw [hsize, Nat.add_sub_cancel, hv'.drRx]

end Sys2Proof.Machine
end

section
/-! SUPPORT. The LCD unit's steps in each of their cases: the position command, the phases of a send, one invocation
of the runnable, and the two request commands (42_lcd.md R225 to R252). -/

namespace Sys2Proof.Machine

/-! ## The position command -/

theorem ddramCmd_of_offset {c : Config} {row off : Byte} (h : c.rowOffset[row.toNat]? = some off) (col : Byte) :
    ddramCmd c row col = some (c.cmdSetDdram ||| (off + col)) := by
  rw [ddramCmd, h, Option.map_some]

theorem ddramCmd_of_no_offset {c : Config} {row : Byte} (h : c.rowOffset.length ≤ row.toNat) (col : Byte) :
    ddramCmd c row col = none := by
  rw [ddramCmd, List.getElem?_eq_none h, Option.map_none]

/-- Settles O46. -/
theorem ddramCommandAddsTheRowOffset : Obligations.DdramCommandAddsTheRowOffset := by
  intro c col hoff hset
  have hrow : ∀ (row off col : Byte), c.rowOffset[row.toNat]? = some off →
      ddramCmd c row col = some (0x80 ||| (off + col)) := fun row off col h => hset ▸ ddramCmd_of_offset h col
  refine ⟨?_, hrow 1 0x40 col (by simp [hoff]), hrow 2 0x10 col (by simp [hoff]), hrow 3 0x50 col (by simp [hoff]),
    hrow 2 0x10 5 (by simp [hoff]), fun row h => ddramCmd_of_no_offset (by simpa [hoff] using h) col⟩
  rw [hrow 0 0x00 col (by simp [hoff]), zero_add]

/-! ## The phases of a send -/

theorem sendThen_of_low {s : State} (h : s.lcd.strobe = .low) (v : Byte) (rs : Bool) (f : Lcd → Lcd) :
    sendThen v rs f s = sendPhaseA v rs s := by
  simp only [sendThen, h]

/-- Phase B of the last nibble is followed by the rest of the step (R226). -/
theorem sendThen_of_last {s : State} (h : s.lcd.strobe = .high)
    (hd : (sendDone s.cfg.lcdMode s.lcd.hiNibble).2 = true) (v : Byte) (rs : Bool) (f : Lcd → Lcd) :
    sendThen v rs f s = setLcd (f (sendPhaseB s).lcd) (sendPhaseB s) := by
  simp only [sendThen, h, hd, if_true]

/-- Phase B of the high nibble of two is not followed by anything (R226). -/
theorem sendThen_of_not_last {s : State} (h : s.lcd.strobe = .high)
    (hd : (sendDone s.cfg.lcdMode s.lcd.hiNibble).2 = false) (v : Byte) (rs : Bool) (f : Lcd → Lcd) :
    sendThen v rs f s = sendPhaseB s := by
  simp only [sendThen, h, hd, Bool.false_eq_true, if_false]

theorem sendPhaseA_eq (v : Byte) (rs : Bool) (s : State) :
    sendPhaseA v rs s = { s with
      lcd := { s.lcd with rs := rs, d := dataLines s.cfg.lcdMode s.lcd v, e := true, strobe := .high }
      trace := s.trace ++ [.pin rs true (dataLines s.cfg.lcdMode s.lcd v)] } := rfl

theorem sendPhaseB_eq (s : State) :
    sendPhaseB s = { s with
      lcd := { s.lcd with
        e := false, strobe := .low, hiNibble := (sendDone s.cfg.lcdMode s.lcd.hiNibble).1 }
      trace := s.trace ++ [latchEvent s.cfg.lcdMode s.lcd, .pin s.lcd.rs false s.lcd.d] } := by
  simp only [sendPhaseB, lowerStrobe, emitPin, emit, setLcd, List.append_assoc, List.cons_append, List.nil_append]

theorem dataLines_four_high (l : Lcd) (v : Byte) :
    (dataLines .four l v).extractLsb' 4 4 = if l.hiNibble = true then v.extractLsb' 4 4 else v.extractLsb' 0 4 :=
  BitVec.extractLsb'_append_eq_left

/-- D7:D4 zero-extended (log 18). -/
theorem setWidth_high_nibble (d : Byte) : (d.extractLsb' 4 4).setWidth 8 = d >>> 4 := by
  refine BitVec.eq_of_toNat_eq ?_
  simp only [BitVec.toNat_setWidth, BitVec.extractLsb'_toNat, BitVec.toNat_ushiftRight, Nat.shiftRight_eq_div_pow]
  omega

theorem setWidth_low_nibble (d : Byte) : (d.extractLsb' 0 4).setWidth 8 = d &&& 0x0F := by
  refine BitVec.eq_of_toNat_eq ?_
  have hmod : d.toNat &&& (0x0F : Byte).toNat = d.toNat % 16 := Nat.and_two_pow_sub_one_eq_mod d.toNat 4
  simp only [BitVec.toNat_setWidth, BitVec.extractLsb'_toNat, BitVec.toNat_and, Nat.shiftRight_zero]
  omega

theorem latchEvent_four (l : Lcd) : latchEvent .four l = .latch l.rs (l.d >>> 4) 4 := by
  rw [latchEvent, setWidth_high_nibble]

/-- Settles O47. -/
theorem sendOnEightBitBusTakesTwoPhases : Obligations.SendOnEightBitBusTakesTwoPhases := by
  intro s v rs f hm
  refine ⟨fun hlow => ?_, fun hhigh => ?_⟩
  · rw [sendThen_of_low hlow, sendPhaseA_eq, hm]
    rfl
  · rw [sendThen_of_last hhigh (by rw [hm]; rfl), sendPhaseB_eq, hm]
    rfl

/-- Settles O48. -/
theorem sendOnFourBitBusTakesFourPhases : Obligations.SendOnFourBitBusTakesFourPhases := by
  intro s v rs f hm
  refine ⟨fun hlow => ⟨dataLines .four s.lcd v, dataLines_four_high s.lcd v, dataLines_four_low s.lcd v, ?_⟩,
    fun hhigh => ⟨fun hhi => ?_, fun hlo => ?_⟩⟩
  · rw [sendThen_of_low hlow, sendPhaseA_eq, hm]
  · rw [sendThen_of_not_last hhigh (by rw [hm, hhi]; rfl), sendPhaseB_eq, hm, hhi, latchEvent_four]
    rfl
  · rw [sendThen_of_last hhigh (by rw [hm, hlo]; rfl), sendPhaseB_eq, hm, hlo, latchEvent_four]
    rfl

/-! ## One invocation of the runnable -/

/-- R230. -/
theorem lcdRun_of_init {s : State} (h : s.lcd.top = .init) : lcdRun s = .next (initStep s) := by
  simp only [lcdRun, h]

theorem lcdRun_of_off {s : State} (h : s.lcd.top = .off) : lcdRun s = .next s := by
  simp only [lcdRun, h]

theorem lcdRun_of_idle {s : State} (ht : s.lcd.top = .operational) (h : s.lcd.req.state = .idle) :
    lcdRun s = .next s := by
  simp only [lcdRun, ht, requestStep, h]

theorem lcdRun_of_write {s : State} (ht : s.lcd.top = .operational) (hb : s.lcd.req.state = .busy)
    (hy : s.lcd.req.type = .write) : lcdRun s = writeStep s := by
  simp only [lcdRun, ht, requestStep, hb, hy]

theorem lcdRun_of_clear {s : State} (ht : s.lcd.top = .operational) (hb : s.lcd.req.state = .busy)
    (hy : s.lcd.req.type = .clear) : lcdRun s = .next (clearStep s) := by
  simp only [lcdRun, ht, requestStep, hb, hy]

/-! ## The init machine -/

section
variable {s : State}

/-- R231. -/
theorem initStep_of_powerOn (h : s.lcd.init = .powerOn) : initStep s = powerOnStep s := by
  simp only [initStep, h]

/-- R232. -/
theorem initStep_of_functionSet1 (h : s.lcd.init = .functionSet1) :
    initStep s = sendThen s.cfg.cmdFs1 false (fun l => { l with init := afterFs1 s.cfg.lcdMode }) s := by
  simp only [initStep, h]

/-- R233. -/
theorem initStep_of_functionSet2 (h : s.lcd.init = .functionSet2) :
    initStep s = sendThen s.cfg.cmdFs2 false (fun l => { l with init := .displayControl }) s := by
  simp only [initStep, h]

/-- R234. -/
theorem initStep_of_displayControl (h : s.lcd.init = .displayControl) :
    initStep s = sendThen s.cfg.cmdDc false (fun l => { l with init := .clearDisplay }) s := by
  simp only [initStep, h]

/-- R235. -/
theorem initStep_of_clearDisplay (h : s.lcd.init = .clearDisplay) :
    initStep s = sendThen s.cfg.cmdClr false (fun l => { l with init := .endInit }) s := by
  simp only [initStep, h]

/-- R236. -/
theorem initStep_of_endInit (h : s.lcd.init = .endInit) :
    initStep s = setLcd { s.lcd with top := .operational } s := by
  simp only [initStep, h]

end

/-- Settles O49: an invocation in Init is one step of the init machine. -/
theorem initMachineFollowsItsStates : Obligations.InitMachineFollowsItsStates := by
  intro s ht
  have hrun : ∀ {t : State}, initStep s = t → exec .evLcdRun s = .next t :=
    fun h => (lcdRun_of_init ht).trans (congrArg _ h)
  refine ⟨fun h => hrun (initStep_of_powerOn h), fun h hm => hrun ?_, fun h hm => hrun ?_,
    fun h => hrun (initStep_of_functionSet2 h), fun h => hrun (initStep_of_displayControl h),
    fun h => hrun (initStep_of_clearDisplay h), fun h => hrun (initStep_of_endInit h)⟩
  · rw [initStep_of_functionSet1 h, hm]
    rfl
  · rw [initStep_of_functionSet1 h, hm]
    rfl

/-! ## The write and clear machines -/

section
variable {s : State}

/-- R240. -/
theorem writeStep_of_start (h : s.lcd.wr = .start) : writeStep s = .next (writeStartStep s) := by
  simp only [writeStep, h]

/-- R241. -/
theorem writeStep_of_setPosition {v : Byte} (h : s.lcd.wr = .setPosition)
    (hv : ddramCmd s.cfg s.lcd.req.row s.lcd.req.col = some v) :
    writeStep s = .next (sendThen v false (fun l => { l with wr := .character }) s) := by
  simp only [writeStep, h, setPositionStep, hv]

/-- R242, with a character left. -/
theorem writeStep_of_character (h : s.lcd.wr = .character) (hlt : s.lcd.req.pos < s.lcd.req.len)
    (ha : admits s.cfg (s.lcd.req.ptr + s.lcd.req.pos) = true) :
    writeStep s = .next (sendThen (bufByte s.buf (s.lcd.req.ptr + s.lcd.req.pos).toNat) true
      (fun l => { l with req := { l.req with pos := l.req.pos + 1 } }) s) := by
  simp only [writeStep, h, characterStep, if_pos hlt, charAddr, load_admitted ha, andThen_next]

/-- R242, with no character left. -/
theorem writeStep_of_no_character (h : s.lcd.wr = .character) (hge : ¬ s.lcd.req.pos < s.lcd.req.len) :
    writeStep s = .next (setLcd { s.lcd with wr := .done } s) := by
  simp only [writeStep, h, characterStep, if_neg hge]

/-- R243. -/
theorem writeStep_of_done (h : s.lcd.wr = .done) :
    writeStep s = .next (setLcd { s.lcd with req := s.lcd.req.release, wr := .start } s) := by
  simp only [writeStep, h]

/-- R244. -/
theorem clearStep_of_start (h : s.lcd.clr = .start) : clearStep s = setLcd { s.lcd with clr := .inProgress } s := by
  simp only [clearStep, h]

/-- R245. -/
theorem clearStep_of_inProgress (h : s.lcd.clr = .inProgress) :
    clearStep s = sendThen s.cfg.cmdClr false (fun l => { l with clr := .done }) s := by
  simp only [clearStep, h]

/-- R247. -/
theorem clearStep_of_done (h : s.lcd.clr = .done) :
    clearStep s = setLcd { s.lcd with req := s.lcd.req.release, clr := .start } s := by
  simp only [clearStep, h]

end

/-- Settles O50: an invocation with a request outstanding is one step of its machine. -/
theorem requestMachinesFollowTheirStates : Obligations.RequestMachinesFollowTheirStates := by
  refine ⟨fun s h => h.elim lcdRun_of_off fun ⟨ht, hi⟩ => lcdRun_of_idle ht hi,
    fun s ht hb => ⟨fun hy => ?_, fun hy => ?_⟩⟩
  · have hrun : exec .evLcdRun s = writeStep s := lcdRun_of_write ht hb hy
    rw [hrun]
    exact ⟨writeStep_of_start, fun h _ => writeStep_of_setPosition h, writeStep_of_character,
      writeStep_of_no_character, writeStep_of_done⟩
  · have hrun : ∀ {t : State}, clearStep s = t → exec .evLcdRun s = .next t :=
      fun h => (lcdRun_of_clear ht hb hy).trans (congrArg _ h)
    exact ⟨fun h => hrun (clearStep_of_start h), fun h => hrun (clearStep_of_inProgress h),
      fun h => hrun (clearStep_of_done h)⟩

/-! ## The request commands -/

theorem lcdFree_eq_false {s : State} (h : s.lcd.req.state = .busy ∨ s.lcd.top ≠ .operational) :
    lcdFree s = false := by
  refine Bool.eq_false_iff.2 fun hf => ?_
  obtain ⟨hidle, htop⟩ := lcdFree_iff.1 hf
  exact h.elim (fun hb => by simp [hidle] at hb) fun hn => hn htop

/-- R250: in range, and dropped with Ok. -/
theorem execLcdWrite_of_dropped {row col : Byte} {s : State} (h0 : s.port.a0 ≠ 0) (hr : row.toNat < s.cfg.lcdRows)
    (hc : col.toNat < s.cfg.lcdCols) (hf : lcdFree s = false) :
    execLcdWrite row col s = .next (ret (lcdCode .ok) s) := by
  rw [execLcdWrite, if_neg h0, if_neg (by omega), if_neg (by simp [hf])]

theorem execLcdWrite_of_outOfRange {row col : Byte} {s : State} (h0 : s.port.a0 ≠ 0)
    (h : s.cfg.lcdRows ≤ row.toNat ∨ s.cfg.lcdCols ≤ col.toNat) :
    execLcdWrite row col s = .next (ret (lcdCode .outOfRange) s) := by
  rw [execLcdWrite, if_neg h0, if_pos h]

/-- Settles O53: the two checks in order, then step B where the slot is free. -/
theorem lcdWriteTakesTheSlotOrIsDropped : Obligations.LcdWriteTakesTheSlotOrIsDropped := by
  intro s row col hat
  refine ⟨fun h0 => if_pos h0, fun h0 h => execLcdWrite_of_outOfRange h0 (by omega),
    fun h0 ⟨hr, hc⟩ hidle htop => ?_, fun h0 ⟨hr, hc⟩ h => execLcdWrite_of_dropped h0 hr hc (lcdFree_eq_false h)⟩
  exact (execLcdWrite_of_accepted h0 hr hc (lcdFree_iff.2 ⟨hidle, htop⟩)).trans (acceptOrHold_of_atomic hat _ _)

/-- Settles O54: step B where the slot is free. -/
theorem lcdClearTakesTheSlotOrIsDropped : Obligations.LcdClearTakesTheSlotOrIsDropped := by
  intro s hat
  refine ⟨fun hidle htop => ?_, fun h => if_neg (by simp [lcdFree_eq_false h])⟩
  exact (execLcdClear_of_accepted (lcdFree_iff.2 ⟨hidle, htop⟩)).trans (acceptOrHold_of_atomic hat _ _)

end Sys2Proof.Machine
end

section
/-! SUPPORT. How many invocations of the LCD runnable the init machine and each request take, and the latches they make
(42_lcd.md R237, R251): stretches of invocations, one for each state of a machine, put one after another. -/

namespace Sys2Proof.Machine

/-! ## Stretches of invocations -/

/-- `n` invocations of the LCD runnable. -/
def lcdRuns (n : Nat) (s : State) : Res State := execAll (scriptLcdRun n) s

theorem lcdRuns_add_of_next {n : Nat} {s m : State} (h : lcdRuns n s = .next m) (k : Nat) :
    lcdRuns (n + k) s = lcdRuns k m := by
  rw [lcdRuns, scriptLcdRun, List.replicate_add]
  exact execAll_append_of_next h

theorem lcdRuns_one {s t : State} (h : lcdRun s = .next t) : lcdRuns 1 s = .next t :=
  andThen_eq_next.2 ⟨t, h, rfl⟩

/-- `n` invocations lead from `s` to `t` and make the latches `made`, the LCD meeting `P` before each of them. -/
structure Leads (P : Lcd → Prop) (n : Nat) (made : List Event) (s t : State) : Prop where
  before : ∀ k, k < n → ∃ m, lcdRuns k s = .next m ∧ P m.lcd
  ends : lcdRuns n s = .next t
  latched : latches t.trace = latches s.trace ++ made
  frame : MainFrame s t

section
variable {P : Lcd → Prop} {n k : Nat} {made more : List Event} {s t r : State}

theorem Leads.refl (P : Lcd → Prop) (s : State) : Leads P 0 [] s s :=
  ⟨fun k hk => absurd hk k.not_lt_zero, rfl, (List.append_nil _).symm, .refl s⟩

theorem Leads.one (hP : P s.lcd) (h : lcdRun s = .next t) (hl : latches t.trace = latches s.trace ++ made) :
    Leads P 1 made s t :=
  ⟨fun k hk => ⟨s, by rw [Nat.lt_one_iff.1 hk]; rfl, hP⟩, lcdRuns_one h, hl, lcdRun_mainFrame h⟩

theorem Leads.trans (h1 : Leads P n made s t) (h2 : Leads P k more t r) : Leads P (n + k) (made ++ more) s r where
  before j hj := by
    by_cases hlt : j < n
    · exact h1.before j hlt
    · obtain ⟨i, rfl⟩ := Nat.exists_eq_add_of_le (Nat.not_lt.1 hlt)
      rw [lcdRuns_add_of_next h1.ends]
      exact h2.before i (by omega)
  ends := by rw [lcdRuns_add_of_next h1.ends, h2.ends]
  latched := by rw [h2.latched, h1.latched, List.append_assoc]
  frame := h1.frame.trans h2.frame

theorem Leads.congr (h : Leads P n made s t) (hn : n = k) (hmade : made = more) : Leads P k more s t :=
  hn ▸ hmade ▸ h

end

/-! ## A whole send -/

/-- Two LCD units that differ in the pins, the strobe and the nibble flip-flop at most. -/
structure SameMachines (l l' : Lcd) : Prop where
  top : l'.top = l.top
  init : l'.init = l.init
  wr : l'.wr = l.wr
  clr : l'.clr = l.clr
  req : l'.req = l.req

theorem SameMachines.trans {l m r : Lcd} (h1 : SameMachines l m) (h2 : SameMachines m r) : SameMachines l r :=
  ⟨h2.top.trans h1.top, h2.init.trans h1.init, h2.wr.trans h1.wr, h2.clr.trans h1.clr, h2.req.trans h1.req⟩

/-- The machines of `s` stand in a state that sends `v`, then does `f`: each invocation is a step of that send for as
long as they stay there. -/
def LcdSends (v : Byte) (rs : Bool) (f : Lcd → Lcd) (s : State) : Prop :=
  ∀ m : State, MainFrame s m → SameMachines s.lcd m.lcd → lcdRun m = .next (sendThen v rs f m)

/-- Between two sends: E low, and on a 4-bit bus the high nibble next. -/
structure AtRest (m : LcdMode) (l : Lcd) : Prop where
  strobe : l.strobe = .low
  nibble : m = .four → l.hiNibble = true

/-- What the LCD latches in one strobe cycle: the byte, or the nibble that the flip-flop selects (R226, log 18). -/
def strobeLatch (m : LcdMode) (hi rs : Bool) (v : Byte) : Event :=
  match m with
  | .eight => .latch rs v 8
  | .four => .latch rs (if hi = true then v >>> 4 else v &&& 0x0F) 4

theorem strobeLatch_isLatch (m : LcdMode) (hi rs : Bool) (v : Byte) : (strobeLatch m hi rs v).isLatch = true := by
  cases m <;> rfl

/-- A falling edge of E shows a latch and the pins. -/
theorem latches_append_strobe {e : Event} (h : e.isLatch = true) (tr : List Event) (rs b : Bool) (d : Byte) :
    latches (tr ++ [e, .pin rs b d]) = latches tr ++ [e] := by
  rw [latches, List.filter_append, List.filter_cons_of_pos h]
  rfl

/-- The invocations of one send (R226). -/
def sendLength : LcdMode → Nat
  | .eight => 2
  | .four => 4

/-- The latches of one send (R226). -/
def sentLatches (m : LcdMode) (rs : Bool) (v : Byte) : List Event :=
  match m with
  | .eight => [.latch rs v 8]
  | .four => [.latch rs (v >>> 4) 4, .latch rs (v &&& 0x0F) 4]

section
variable {P : Lcd → Prop} {v : Byte} {rs : Bool} {f : Lcd → Lcd} {s t : State}

/-- Phase B latches what phase A drove. -/
theorem latchEvent_sendPhaseA (v : Byte) (rs : Bool) (s : State) :
    latchEvent s.cfg.lcdMode (sendPhaseA v rs s).lcd = strobeLatch s.cfg.lcdMode s.lcd.hiNibble rs v := by
  have hlcd : (sendPhaseA v rs s).lcd =
      { s.lcd with rs := rs, d := dataLines s.cfg.lcdMode s.lcd v, e := true, strobe := .high } := rfl
  rw [hlcd]
  cases s.cfg.lcdMode with
  | eight => rfl
  | four =>
    rw [latchEvent, dataLines_four_high, strobeLatch, apply_ite (BitVec.setWidth 8), setWidth_high_nibble,
      setWidth_low_nibble]

theorem sendThen_lcd_of_high (h : s.lcd.strobe = .high) :
    (sendThen v rs f s).lcd =
      if (sendDone s.cfg.lcdMode s.lcd.hiNibble).2 = true then f (sendPhaseB s).lcd else (sendPhaseB s).lcd := by
  split_ifs with hd
  · rw [sendThen_of_last h hd, setLcd_lcd]
  · rw [sendThen_of_not_last h (by simpa using hd)]

theorem sendThen_trace_of_high (h : s.lcd.strobe = .high) :
    (sendThen v rs f s).trace = s.trace ++ [latchEvent s.cfg.lcdMode s.lcd, .pin s.lcd.rs false s.lcd.d] := by
  have hB := congrArg State.trace (sendPhaseB_eq s)
  cases hd : (sendDone s.cfg.lcdMode s.lcd.hiNibble).2 with
  | true => rw [sendThen_of_last h hd, setLcd_trace, hB]
  | false => rw [sendThen_of_not_last h hd, hB]

theorem LcdSends.of_same (h : LcdSends v rs f s) (hf : MainFrame s t) (hm : SameMachines s.lcd t.lcd) :
    LcdSends v rs f t :=
  fun r hr hmr => h r (hf.trans hr) (hm.trans hmr)

/-- One strobe cycle of a send takes two invocations and makes one latch (R226). -/
theorem LcdSends.strobeCycle (hs : LcdSends v rs f s) (hlow : s.lcd.strobe = .low)
    (hP : ∀ l, SameMachines s.lcd l → P l) :
    ∃ l t, SameMachines s.lcd l ∧ l.strobe = .low ∧ l.hiNibble = (sendDone s.cfg.lcdMode s.lcd.hiNibble).1 ∧
      t.lcd = (if (sendDone s.cfg.lcdMode s.lcd.hiNibble).2 = true then f l else l) ∧
      Leads P 2 [strobeLatch s.cfg.lcdMode s.lcd.hiNibble rs v] s t := by
  have hsame : SameMachines s.lcd (sendPhaseA v rs s).lcd := ⟨rfl, rfl, rfl, rfl, rfl⟩
  have hA : lcdRun s = .next (sendPhaseA v rs s) := by
    rw [hs s (.refl s) ⟨rfl, rfl, rfl, rfl, rfl⟩, sendThen_of_low hlow]
  have hB := hs _ (lcdRun_mainFrame hA) hsame
  have hAlatched : latches (sendPhaseA v rs s).trace = latches s.trace ++ [] := by
    simp [sendPhaseA_eq, latches, Event.isLatch]
  have hBlatched : latches (sendThen v rs f (sendPhaseA v rs s)).trace =
      latches (sendPhaseA v rs s).trace ++ [strobeLatch s.cfg.lcdMode s.lcd.hiNibble rs v] := by
    have hlatch : latchEvent (sendPhaseA v rs s).cfg.lcdMode (sendPhaseA v rs s).lcd = _ := latchEvent_sendPhaseA v rs s
    rw [sendThen_trace_of_high rfl, hlatch, latches_append_strobe (strobeLatch_isLatch _ _ _ _)]
  exact ⟨(sendPhaseB (sendPhaseA v rs s)).lcd, _, ⟨rfl, rfl, rfl, rfl, rfl⟩, rfl, rfl, sendThen_lcd_of_high rfl,
    (Leads.one (hP _ ⟨rfl, rfl, rfl, rfl, rfl⟩) hA hAlatched).trans (.one (hP _ hsame) hB hBlatched)⟩

/-- A whole send, from rest to rest: one strobe cycle on an 8-bit bus, two on a 4-bit one (R226). -/
theorem LcdSends.leads (hs : LcdSends v rs f s) (hrest : AtRest s.cfg.lcdMode s.lcd)
    (hP : ∀ l, SameMachines s.lcd l → P l) :
    ∃ l t, SameMachines s.lcd l ∧ AtRest s.cfg.lcdMode l ∧ t.lcd = f l ∧
      Leads P (sendLength s.cfg.lcdMode) (sentLatches s.cfg.lcdMode rs v) s t := by
  obtain ⟨l, t, hsame, hlow, hhi, ht, hleads⟩ := hs.strobeCycle hrest.strobe hP
  cases hm : s.cfg.lcdMode with
  | eight =>
    rw [hm] at ht hleads
    exact ⟨l, t, hsame, ⟨hlow, by simp⟩, ht, hleads⟩
  | four =>
    rw [hm, hrest.nibble hm] at ht hleads hhi
    obtain rfl : t.lcd = l := ht
    obtain ⟨l', t', hsame', hlow', hhi', ht', hleads'⟩ :=
      (hs.of_same hleads.frame hsame).strobeCycle hlow fun l' hl' => hP l' (hsame.trans hl')
    rw [hleads.frame.cfg, hm, hhi] at ht' hleads' hhi'
    exact ⟨l', t', hsame.trans hsame', ⟨hlow', fun _ => hhi'⟩, ht', hleads.trans hleads'⟩

end

/-! ## Init -/

/-- The LCD is not yet operational. -/
abbrev Initializing (l : Lcd) : Prop := l.top = .init

/-- The init machine stands at the beginning of its state `i`. -/
structure InitAt (c : Config) (i : LcdInit) (s : State) : Prop where
  cfg : s.cfg = c
  top : s.lcd.top = .init
  init : s.lcd.init = i
  rest : AtRest c.lcdMode s.lcd

section
variable {c : Config} {i next : LcdInit} {v : Byte} {s : State}

/-- A state of the init machine that sends a command takes one send. -/
theorem InitAt.send (h : InitAt c i s) (hi : ∀ m : State, m.cfg = c → m.lcd.init = i →
      initStep m = sendThen v false (fun l => { l with init := next }) m) :
    ∃ t, InitAt c next t ∧ Leads Initializing (sendLength c.lcdMode) (sentLatches c.lcdMode false v) s t := by
  obtain ⟨rfl, htop, hinit, hrest⟩ := h
  have hs : LcdSends v false (fun l => { l with init := next }) s := fun m hf hm =>
    (lcdRun_of_init (hm.top.trans htop)).trans (congrArg _ (hi m hf.cfg (hm.init.trans hinit)))
  obtain ⟨l, t, hsame, hrest', ht, hleads⟩ := hs.leads hrest fun l hl => hl.top.trans htop
  refine ⟨t, ⟨hleads.frame.cfg, ?_, ?_, ?_⟩, hleads⟩
  · rw [ht]
    exact hsame.top.trans htop
  · rw [ht]
  · rw [ht]
    exact ⟨hrest'.strobe, hrest'.nibble⟩

theorem InitAt.powerOnStep (h : InitAt c .powerOn s) :
    InitAt c (if c.lcdPoweronTicks ≤ s.lcd.pwrCnt + 1 then .functionSet1 else .powerOn) (powerOnStep s) ∧
      Leads Initializing 1 [] s (powerOnStep s) := by
  obtain ⟨rfl, htop, hinit, hrest⟩ := h
  have hrun := (lcdRun_of_init htop).trans (congrArg _ (initStep_of_powerOn hinit))
  exact ⟨⟨rfl, htop, rfl, ⟨hrest.strobe, hrest.nibble⟩⟩, .one htop hrun (List.append_nil _).symm⟩

/-- PowerOn counts up to its threshold (R231). -/
theorem InitAt.powerOn {n : Nat} (h : InitAt c .powerOn s)
    (hn : s.lcd.pwrCnt.toNat + (n + 1) = c.lcdPoweronTicks.toNat) :
    ∃ t, InitAt c .functionSet1 t ∧ Leads Initializing (n + 1) [] s t := by
  induction n generalizing s with
  | zero =>
    have hstep := h.powerOnStep
    rw [if_pos (by bv_omega)] at hstep
    exact ⟨_, hstep⟩
  | succ n ih =>
    obtain ⟨h1, l1⟩ := h.powerOnStep
    rw [if_neg (by bv_omega)] at h1
    have hcount : (Machine.powerOnStep s).lcd.pwrCnt = s.lcd.pwrCnt + 1 := rfl
    obtain ⟨t, ht, l2⟩ := ih h1 (by rw [hcount]; bv_omega)
    exact ⟨t, ht, (l1.trans l2).congr (by omega) rfl⟩

/-- From DisplayControl: two sends, and the end of init (R234 to R236). -/
theorem InitAt.displayControl (h : InitAt c .displayControl s) :
    ∃ t, t.lcd.top = .operational ∧ Leads Initializing (sendLength c.lcdMode + sendLength c.lcdMode + 1)
      (sentLatches c.lcdMode false c.cmdDc ++ sentLatches c.lcdMode false c.cmdClr) s t := by
  obtain ⟨t1, h1, l1⟩ := h.send fun m hc hm => hc ▸ initStep_of_displayControl hm
  obtain ⟨t2, h2, l2⟩ := h1.send fun m hc hm => hc ▸ initStep_of_clearDisplay hm
  have hend := (lcdRun_of_init h2.top).trans (congrArg _ (initStep_of_endInit h2.init))
  exact ⟨_, rfl, ((l1.trans l2).trans (.one h2.top hend (List.append_nil _).symm)).congr rfl (List.append_nil _)⟩

end

theorem initAt_of_reset {s : State} (h : s.lcd = Lcd.reset) : InitAt s.cfg .powerOn s :=
  ⟨rfl, by rw [h]; rfl, by rw [h]; rfl, by rw [h]; exact ⟨rfl, fun _ => rfl⟩⟩

/-- Settles O51: the count of PowerOn, then a send for each command on the way, then the end of init. -/
theorem initTakesItsCountOfInvocations : Obligations.InitTakesItsCountOfInvocations := by
  intro s hreset hp
  have hpos : 0 < s.cfg.lcdPoweronTicks.toNat := by bv_omega
  obtain ⟨n, hn⟩ := Nat.exists_eq_succ_of_ne_zero hpos.ne'
  obtain ⟨t1, h1, l1⟩ := (initAt_of_reset hreset).powerOn (n := n) (by simp [hreset, Lcd.reset, hn])
  obtain ⟨t2, h2, l2⟩ := h1.send fun m hc hm => hc ▸ initStep_of_functionSet1 hm
  refine ⟨fun hm => ?_, fun hm => ?_⟩
  · rw [hm] at h2
    obtain ⟨t, htop, l3⟩ := h2.displayControl
    rw [hm] at l2 l3
    have hall := (l1.trans l2).trans l3
    rw [← Nat.succ_eq_add_one, ← hn] at hall
    exact ⟨hall.before, t, hall.ends, htop, hall.latched⟩
  · rw [hm] at h2
    obtain ⟨t3, h3, l3⟩ := h2.send fun m hc hm => hc ▸ initStep_of_functionSet2 hm
    obtain ⟨t, htop, l4⟩ := h3.displayControl
    rw [hm] at l2 l3 l4
    have hall := ((l1.trans l2).trans l3).trans l4
    rw [← Nat.succ_eq_add_one, ← hn] at hall
    refine ⟨hall.before, t, hall.ends, htop, hall.latched.trans ?_⟩
    simp [sentLatches]

/-! ## A write request -/

/-- The request slot is taken. -/
abbrev Requested (l : Lcd) : Prop := l.req.state = .busy

/-- The request slot has returned to Idle (R243, R247). -/
abbrev Released (l : Lcd) : Prop := l.req.state = .idle ∧ l.req.type = .none

/-- An LCD unit whose write machine is at the beginning of its state `w`, with the request `r` outstanding and `p` of
its characters sent. -/
structure WriteUnit (m : LcdMode) (r : LcdReq) (p : Word) (w : LcdWr) (l : Lcd) : Prop where
  top : l.top = .operational
  req : l.req = { r with pos := p }
  wr : l.wr = w
  rest : AtRest m l

/-- The same of a machine with configuration `c` and BUF `b`, where `r` is a write request. -/
structure WriteAt (c : Config) (b : Memory) (r : LcdReq) (p : Word) (w : LcdWr) (s : State) : Prop where
  cfg : s.cfg = c
  buf : s.buf = b
  busy : r.state = .busy
  type : r.type = .write
  lcd : WriteUnit c.lcdMode r p w s.lcd

section
variable {c : Config} {b : Memory} {r : LcdReq} {p p' : Word} {w w' : LcdWr} {v : Byte} {s t : State}

theorem WriteAt.requested (h : WriteAt c b r p w s) : Requested s.lcd := (congrArg _ h.lcd.req).trans h.busy

theorem WriteAt.lcdRun (h : WriteAt c b r p w s) : lcdRun s = writeStep s :=
  lcdRun_of_write h.lcd.top h.requested ((congrArg _ h.lcd.req).trans h.type)

/-- What the write machine reads of the state. -/
def WriteReads (c : Config) (b : Memory) (r : LcdReq) (p : Word) (w : LcdWr) (m : State) : Prop :=
  m.cfg = c ∧ m.buf = b ∧ m.lcd.req = { r with pos := p } ∧ m.lcd.wr = w

/-- A state of the write machine that sends a byte takes one send. -/
theorem WriteAt.send {rs : Bool} {f : Lcd → Lcd} (h : WriteAt c b r p w s)
    (hw : ∀ m, WriteReads c b r p w m → writeStep m = .next (sendThen v rs f m))
    (hf : ∀ l, WriteUnit c.lcdMode r p w l → WriteUnit c.lcdMode r p' w' (f l)) :
    ∃ t, WriteAt c b r p' w' t ∧ Leads Requested (sendLength c.lcdMode) (sentLatches c.lcdMode rs v) s t := by
  have hreq := h.requested
  have hty : s.lcd.req.type = .write := (congrArg _ h.lcd.req).trans h.type
  obtain ⟨rfl, rfl, hbusy, htype, htop, hr, hwr, hrest⟩ := h
  have hs : LcdSends v rs f s := fun m hm hsame =>
    (lcdRun_of_write (hsame.top.trans htop) ((congrArg _ hsame.req).trans hreq)
      ((congrArg _ hsame.req).trans hty)).trans (hw m ⟨hm.cfg, hm.buf, hsame.req.trans hr, hsame.wr.trans hwr⟩)
  obtain ⟨l, t, hsame, hrest', ht, hleads⟩ := hs.leads hrest fun l hl => (congrArg _ hl.req).trans hreq
  refine ⟨t, ⟨hleads.frame.cfg, hleads.frame.buf, hbusy, htype, ?_⟩, hleads⟩
  rw [ht]
  exact hf l ⟨hsame.top.trans htop, hsame.req.trans hr, hsame.wr.trans hwr, hrest'⟩

/-- R241. -/
theorem WriteAt.setPosition (h : WriteAt c b r p .setPosition s) (hv : ddramCmd c r.row r.col = some v) :
    ∃ t, WriteAt c b r p .character t ∧
      Leads Requested (sendLength c.lcdMode) (sentLatches c.lcdMode false v) s t :=
  h.send (f := fun l => { l with wr := .character })
    (fun m hm => by
      obtain ⟨hc, -, hr, hw⟩ := hm
      exact writeStep_of_setPosition hw (by rw [hc, hr]; exact hv))
    fun _ hl => { hl with wr := rfl, rest := ⟨hl.rest.strobe, hl.rest.nibble⟩ }

/-- R242, with a character left. -/
theorem WriteAt.character (h : WriteAt c b r p .character s) (hlt : p < r.len) (ha : admits c (r.ptr + p) = true) :
    ∃ t, WriteAt c b r (p + 1) .character t ∧
      Leads Requested (sendLength c.lcdMode) (sentLatches c.lcdMode true (bufByte b (r.ptr + p).toNat)) s t :=
  h.send (f := fun l => { l with req := { l.req with pos := l.req.pos + 1 } })
    (fun m hm => by
      obtain ⟨hc, hb, hr, hw⟩ := hm
      rw [writeStep_of_character hw (by rw [hr]; exact hlt) (by rw [hc, hr]; exact ha), hb, hr])
    fun _ hl => { hl with req := by rw [hl.req], rest := ⟨hl.rest.strobe, hl.rest.nibble⟩ }

/-- The latches of the first `k` characters of a request. -/
def characterLatches (m : LcdMode) (b : Memory) (ptr : Word) (k : Nat) : List Event :=
  (List.range k).flatMap fun j => sentLatches m true (bufByte b (ptr + BitVec.ofNat 32 j).toNat)

theorem characterLatches_succ (m : LcdMode) (b : Memory) (ptr : Word) (k : Nat) :
    characterLatches m b ptr (k + 1) =
      characterLatches m b ptr k ++ sentLatches m true (bufByte b (ptr + BitVec.ofNat 32 k).toNat) := by
  simp [characterLatches, List.range_succ]

/-- The first `k` characters, one send each (R242). -/
theorem WriteAt.characters (h : WriteAt c b r 0 .character s)
    (ha : ∀ j, j < r.len.toNat → admits c (r.ptr + BitVec.ofNat 32 j) = true) (k : Nat) (hk : k ≤ r.len.toNat) :
    ∃ t, WriteAt c b r (BitVec.ofNat 32 k) .character t ∧
      Leads Requested (sendLength c.lcdMode * k) (characterLatches c.lcdMode b r.ptr k) s t := by
  induction k with
  | zero => exact ⟨s, h, .refl _ s⟩
  | succ k ih =>
    obtain ⟨m, hm, l1⟩ := ih (by omega)
    obtain ⟨t, ht, l2⟩ := hm.character (ofNat_lt_of_lt_toNat hk) (ha k hk)
    rw [ofNat_succ] at ht
    exact ⟨t, ht, (l1.trans l2).congr rfl (characterLatches_succ _ _ _ _).symm⟩

/-- With no character left: Done, and the slot's return to Idle (R242, R243). -/
theorem WriteAt.finish (h : WriteAt c b r p .character s) (hge : ¬ p < r.len) :
    ∃ t, Released t.lcd ∧ Leads Requested 2 [] s t := by
  have hlast := h.lcdRun.trans (writeStep_of_no_character h.lcd.wr (by rw [h.lcd.req]; exact hge))
  have h1 : WriteAt c b r p .done (setLcd { s.lcd with wr := .done } s) :=
    ⟨h.cfg, h.buf, h.busy, h.type, h.lcd.top, h.lcd.req, rfl, h.lcd.rest.strobe, h.lcd.rest.nibble⟩
  have hdone := h1.lcdRun.trans (writeStep_of_done h1.lcd.wr)
  exact ⟨_, ⟨rfl, rfl⟩, Leads.trans (.one h.requested hlast (List.append_nil _).symm)
    (.one h1.requested hdone (List.append_nil _).symm)⟩

/-- R240: whatever the strobe was, E is low afterwards. -/
theorem writeStartStep_leads (ht : s.lcd.top = .operational) (hb : s.lcd.req.state = .busy)
    (hy : s.lcd.req.type = .write) (hw : s.lcd.wr = .start) (hhi : s.cfg.lcdMode = .four → s.lcd.hiNibble = true) :
    WriteAt s.cfg s.buf s.lcd.req s.lcd.req.pos .setPosition (writeStartStep s) ∧
      Leads Requested 1 [] s (writeStartStep s) :=
  ⟨⟨rfl, rfl, hb, hy, ht, rfl, rfl, rfl, hhi⟩, .one hb ((lcdRun_of_write ht hb hy).trans (writeStep_of_start hw))
    (by simp [writeStartStep, latches, Event.isLatch])⟩

/-- The invocations of a write: its start, the position, the characters, and two more (R251). -/
theorem writeRequest_leads (ht : s.lcd.top = .operational) (hb : s.lcd.req.state = .busy)
    (hy : s.lcd.req.type = .write) (hw : s.lcd.wr = .start) (hhi : s.cfg.lcdMode = .four → s.lcd.hiNibble = true)
    (hpos : s.lcd.req.pos = 0) (hv : ddramCmd s.cfg s.lcd.req.row s.lcd.req.col = some v)
    (ha : ∀ k, k < s.lcd.req.len.toNat → admits s.cfg (s.lcd.req.ptr + BitVec.ofNat 32 k) = true) :
    ∃ t, Released t.lcd ∧ Leads Requested (sendLength s.cfg.lcdMode * (s.lcd.req.len.toNat + 1) + 3)
      (sentLatches s.cfg.lcdMode false v ++
        characterLatches s.cfg.lcdMode s.buf s.lcd.req.ptr s.lcd.req.len.toNat) s t := by
  obtain ⟨h1, l1⟩ := writeStartStep_leads ht hb hy hw hhi
  rw [hpos] at h1
  obtain ⟨t2, h2, l2⟩ := h1.setPosition hv
  obtain ⟨t3, h3, l3⟩ := h2.characters ha _ le_rfl
  obtain ⟨t, hrel, l4⟩ := h3.finish (by simp)
  refine ⟨t, hrel, (((l1.trans l2).trans l3).trans l4).congr ?_ (List.append_nil _)⟩
  rw [Nat.mul_succ]
  omega

end

/-! ## A clear request -/

/-- A clear request is outstanding, its machine at the beginning of its state `k`. -/
structure ClearAt (c : Config) (k : LcdClr) (s : State) : Prop where
  cfg : s.cfg = c
  top : s.lcd.top = .operational
  busy : s.lcd.req.state = .busy
  type : s.lcd.req.type = .clear
  clr : s.lcd.clr = k
  rest : AtRest c.lcdMode s.lcd

section
variable {c : Config} {s : State}

theorem ClearAt.lcdRun {k : LcdClr} (h : ClearAt c k s) : lcdRun s = .next (clearStep s) :=
  lcdRun_of_clear h.top h.busy h.type

/-- R244. -/
theorem ClearAt.start (h : ClearAt c .start s) : ∃ t, ClearAt c .inProgress t ∧ Leads Requested 1 [] s t :=
  ⟨setLcd { s.lcd with clr := .inProgress } s,
    ⟨h.cfg, h.top, h.busy, h.type, rfl, h.rest.strobe, h.rest.nibble⟩,
    .one h.busy (h.lcdRun.trans (congrArg _ (clearStep_of_start h.clr))) (List.append_nil _).symm⟩

/-- R245. -/
theorem ClearAt.send (h : ClearAt c .inProgress s) :
    ∃ t, ClearAt c .done t ∧
      Leads Requested (sendLength c.lcdMode) (sentLatches c.lcdMode false c.cmdClr) s t := by
  obtain ⟨rfl, htop, hbusy, htype, hclr, hrest⟩ := h
  have hs : LcdSends s.cfg.cmdClr false (fun l => { l with clr := .done }) s := fun m hm hsame => by
    rw [lcdRun_of_clear (hsame.top.trans htop) ((congrArg _ hsame.req).trans hbusy)
      ((congrArg _ hsame.req).trans htype), clearStep_of_inProgress (hsame.clr.trans hclr), hm.cfg]
  obtain ⟨l, t, hsame, hrest', ht, hleads⟩ := hs.leads hrest fun l hl => (congrArg _ hl.req).trans hbusy
  refine ⟨t, ⟨hleads.frame.cfg, ?_, ?_, ?_, ?_, ?_⟩, hleads⟩
  all_goals rw [ht]
  · exact hsame.top.trans htop
  · exact (congrArg _ hsame.req).trans hbusy
  · exact (congrArg _ hsame.req).trans htype
  · exact ⟨hrest'.strobe, hrest'.nibble⟩

/-- R247. -/
theorem ClearAt.finish (h : ClearAt c .done s) : ∃ t, Released t.lcd ∧ Leads Requested 1 [] s t :=
  ⟨setLcd { s.lcd with req := s.lcd.req.release, clr := .start } s, ⟨rfl, rfl⟩,
    .one h.busy (h.lcdRun.trans (congrArg _ (clearStep_of_done h.clr))) (List.append_nil _).symm⟩

/-- The invocations of a clear: its send, and one before and one after it (R251). -/
theorem ClearAt.leads (h : ClearAt c .start s) :
    ∃ t, Released t.lcd ∧
      Leads Requested (sendLength c.lcdMode + 2) (sentLatches c.lcdMode false c.cmdClr) s t := by
  obtain ⟨t1, h1, l1⟩ := h.start
  obtain ⟨t2, h2, l2⟩ := h1.send
  obtain ⟨t, hrel, l3⟩ := h2.finish
  exact ⟨t, hrel, ((l1.trans l2).trans l3).congr (by omega) (List.append_nil _)⟩

end

theorem characterLatches_eight (b : Memory) (ptr : Word) (k : Nat) :
    characterLatches .eight b ptr k =
      (List.range k).map fun j => .latch true (bufByte b (ptr + BitVec.ofNat 32 j).toNat) 8 :=
  List.map_eq_flatMap.symm

/-- A stretch that releases the slot: Busy before its last invocation, Idle after it. -/
theorem busy_until_released {n : Nat} {made : List Event} {s : State}
    (h : ∃ t, Released t.lcd ∧ Leads Requested n made s t) :
    (∀ k, k < n → ∃ t, lcdRuns k s = .next t ∧ t.lcd.req.state = .busy) ∧
      ∃ t, lcdRuns n s = .next t ∧ t.lcd.req.state = .idle ∧ t.lcd.req.type = .none ∧
        latches t.trace = latches s.trace ++ made := by
  obtain ⟨t, ⟨hidle, hnone⟩, h⟩ := h
  exact ⟨h.before, t, h.ends, hidle, hnone, h.latched⟩

/-- Settles O52: both requests on both buses, each bus with its length of a send. -/
theorem requestsTakeTheirCountOfInvocations : Obligations.RequestsTakeTheirCountOfInvocations := by
  intro s htop hbusy
  refine ⟨fun hy hw hpos v hv ha => ⟨fun hm => ?_, fun hm hhi => ?_⟩,
    fun hy hc hlow => ⟨fun hm => ?_, fun hm hhi => ?_⟩⟩
  · have h := writeRequest_leads htop hbusy hy hw (by simp [hm]) hpos hv ha
    rw [hm, characterLatches_eight] at h
    exact busy_until_released h
  · have h := writeRequest_leads htop hbusy hy hw (fun _ => hhi) hpos hv ha
    rw [hm] at h
    exact busy_until_released h
  · have h := ClearAt.leads ⟨rfl, htop, hbusy, hy, hc, hlow, by simp [hm]⟩
    rw [hm] at h
    exact busy_until_released h
  · have h := ClearAt.leads ⟨rfl, htop, hbusy, hy, hc, hlow, fun _ => hhi⟩
    rw [hm] at h
    exact busy_until_released h

end Sys2Proof.Machine
end

section
/-! SUPPORT. The callbacks that `invoke` distinguishes (60_exceptions.md R286). -/

namespace Sys2Proof.Machine

@[simp] theorem invoke_null (s : State) : invoke 0 s = .next s := if_pos rfl

theorem invoke_schTick {s : State} (h0 : s.cfg.schTick ≠ 0) : invoke s.cfg.schTick s = .next (schTick s) :=
  (if_neg h0).trans (if_pos rfl)

theorem invoke_cbLcd {s : State} (h0 : s.cfg.cbLcd ≠ 0) (h1 : s.cfg.cbLcd ≠ s.cfg.schTick) :
    invoke s.cfg.cbLcd s = execEvLcdRun s :=
  (if_neg h0).trans ((if_neg h1).trans (if_pos rfl))

/-- Settles O13: one case each for null, `SCHTICK` and `CB_LCD`, and any other identifier is opaque. -/
theorem invokeHasFourCases : Obligations.InvokeHasFourCases := by
  intro s cb htick hlcd hne
  refine ⟨?null, ?schTick, ?cbLcd, ?other⟩
  case null => exact invoke_null s
  case schTick => exact invoke_schTick htick
  case cbLcd => exact invoke_cbLcd hlcd hne.symm
  case other => exact fun _ h1 h2 => invoke_of_opaque h1 h2

end Sys2Proof.Machine
end

section
/-! SUPPORT. What is enabled right after reset (70_reset_and_hazards.md R311). -/

namespace Sys2Proof.Machine

theorem usart?_resetWith (c : Config) (p : Port) (g : Nat → Byte) (m : Memory) {i : Byte} (hi : i.toNat < c.nUsart) :
    usart? (State.resetWith c p g m) i = some (Usart.resetWith (g i.toNat)) := by
  simp [usart?, State.resetWith, hi]

theorem irqPending_of_no_cause {s : State} {i : Byte} {u : Usart} (hu : usart? s i = some u)
    (htx : u.txCause = false) (hrx : u.rxCause = false) : irqPending s i = false := by
  have hu' : s.us[i.toNat]? = some u := hu
  simp [irqPending, hu', htx, hrx]

theorem crBit_resetWith (b : Byte) (k : Nat) : crBit (Usart.resetWith b).cr k = false :=
  BitVec.getLsbD_zero

/-- `TC` is set from reset on, but its enable is not (R67). -/
theorem txCause_resetWith (b : Byte) : (Usart.resetWith b).txCause = false := by
  rw [Usart.txCause, crBit_resetWith, Bool.and_false]

theorem rxCause_resetWith (b : Byte) : (Usart.resetWith b).rxCause = false := by
  rw [Usart.rxCause, crBit_resetWith, Bool.and_false]

theorem execEvTick_of_not_running {s : State} (hr : s.st.running = false) :
    execEvTick s = .refused (.notEnabled "EV.TICK") :=
  if_neg (ne_true_of_eq_false hr)

/-- Settles O10: the timer is off, the scheduler stopped, and each USART idle with a control register of 0. -/
theorem nothingIsArmedAfterReset : Obligations.NothingIsArmedAfterReset := by
  intro c p g m i d hi s
  have hu : usart? s i = some (Usart.resetWith (g i.toNat)) := usart?_resetWith c p g m hi
  refine ⟨?tick, ?schStep, ?irq, ?txDone, ?poll, ?rxByte⟩
  case tick => exact execEvTick_of_not_running (s := s) rfl
  case schStep => exact execEvSchStep_of_stopped (s := s) rfl
  case irq =>
    exact execEvIrq_of_not_pending hu (irqPending_of_no_cause hu (txCause_resetWith _) (rxCause_resetWith _))
  case txDone => exact execEvTxDone_of_free hu rfl
  case poll => exact execEvPoll_of_not_spinning hu (by simp [Usart.resetWith])
  case rxByte => exact execEvRxByte_of_disabled hu (crBit_resetWith _ bitRxen)

end Sys2Proof.Machine
end
